-- ==== Sys2Proof/Word.lean ====
section
/-! DEFINITION. Word.lean: the value widths of 00_scope.md R8. All values are unsigned. -/
namespace Sys2Proof

/-- A nibble, 4 bits (R8, format F-NIB of 30_encoding.md R57). -/
abbrev Nibble := BitVec 4

/-- A byte, 8 bits (R8). -/
abbrev Byte := BitVec 8

/-- A FEC symbol, 8 bits (format F-SYM of 30_encoding.md R57). -/
abbrev Symbol := BitVec 8

/-- A bus word or a symbol pair, 16 bits (formats F-BUS and F-PAIR of 30_encoding.md R57). -/
abbrev Word := BitVec 16

end Sys2Proof
end

