-- ==== Sys2Proof/Config.lean ====
section
/-! DEFINITION. Config.lean: the part of `Cfg` (00_scope.md R7) that the spec leaves OPEN, and the free
values. Every OPEN parameter is an opaque constant: nothing in Lean can evaluate it, so a theorem about the
model holds whatever its value is (log 12). The parameters whose values R7 fixes are in Machine/Params.lean,
the code tables in Machine/Codec.lean. Where R7 or R172 bounds a parameter, the definition is built so that
the bound holds for every value of the opaque constant under it. -/
namespace Sys2Proof.Config

/-- `CMD_RXREAD`: the command word that reads the receive FIFO (R7 OPEN, R44). -/
opaque cmdRxRead : Word

/-- The high byte of `CMD_TXWRITE`; R7 fixes the low byte at zero. -/
opaque cmdTxWriteHigh : Byte

/-- `CMD_TXWRITE`: a 16-bit word with low byte zero (R7, R172). -/
def cmdTxWrite : Word := cmdTxWriteHigh ++ (0x00#8)

/-- `freqCmd`: from a 12-bit value to a bus word (R7 OPEN, R73). -/
opaque freqCmd : BitVec 12 → Word

/-- `isFifoCtl`: whether a word targets the FIFO-control register (R7 OPEN, R72). -/
opaque isFifoCtl : Word → Bool

/-- `FIFO_USER_MASK`: the caller-controlled bits of the FIFO-control register (R7 OPEN, R21). -/
opaque fifoUserMask : Word

/-- The word `FIFO_USER_DEFAULT` is taken from, before R7's bound. -/
opaque fifoUserDefaultBits : Word

/-- `FIFO_USER_DEFAULT`: a subset of `FIFO_USER_MASK` (R7, R172). -/
def fifoUserDefault : Word := fifoUserDefaultBits &&& fifoUserMask

/-- "the driver's fixed/internal bits" of the FIFO-control register (R72), before the mask. -/
opaque fifoCtlInternal : Word → Word

/-- `fifoCtlWord`: carries the user bits in the masked positions and the driver's internal bits elsewhere
(R72). -/
def fifoCtlWord (u : Word) : Word := (u &&& fifoUserMask) ||| (fifoCtlInternal u &&& ~~~fifoUserMask)

/-- `SEQ_INIT` (R7 OPEN, R88). -/
opaque seqInit : Word → List Word

/-- `SEQ_ARM_TX` (R7 OPEN, R95, R101). -/
opaque seqArmTx : List Word

/-- `SEQ_TO_RX` (R7 OPEN, R124). -/
opaque seqToRx : Word → List Word

/-- `SEQ_FIFO_CLEAR` (R7 OPEN, R133). -/
opaque seqFifoClear : Word → List Word

/-- `SEQ_RESET` (R7 OPEN, R105). -/
opaque seqReset : Word → List Word

/-- `MODE_SERIAL_ECC`: the boot-mode byte that the non-volatile layer stores (R7 OPEN, R80, D29). No
operation reads it. -/
opaque modeSerialEcc : Byte

/-- The unspecified byte that the `n`-th read past the end of a payload gives: any 8-bit value, fresh each
time (20_memory.md R37, 93_implementation_defined.md U3). Log 6. -/
opaque freeByte : Nat → Byte

/-- `RX_LANE`: which half of the chip's answer holds the received byte (R7, R44). -/
inductive Lane where
  | low
  | high
  deriving DecidableEq, Repr

/-- The fields `ENC` and `DEC` of `Cfg` (R7): an encoding table and a decode table. The decode table is
consulted only for symbols two or more bits from every codeword (40_fec_codec.md R77). -/
structure Code where
  enc : Nibble → Symbol
  dec : Symbol → Nibble

end Sys2Proof.Config
end

