-- ==== Sys2Proof/Machine/Params.lean ====
section
/-! DEFINITION. Machine/Params.lean: the parameters of `Cfg` whose values 00_scope.md R7 fixes. The OPEN
ones are in Config.lean. -/
namespace Sys2Proof.Machine

/-- `CAP`: the payload capacity (R7). -/
def capacity : Nat := 64

/-- `TX_OVERHEAD` (R7). -/
def txOverhead : Nat := 6

/-- `RX_OVERHEAD` (R7, R129; 90_conflicts.md C3). -/
def rxOverhead : Nat := 2

/-- `TYPE_RAW` (R7, R60). -/
def typeRaw : Byte := 1#8

/-- `TYPE_RAW_ECC` (R7, R60). -/
def typeRawEcc : Byte := 2#8

/-- `TYPE_FRAMED` (R7, R60). -/
def typeFramed : Byte := 3#8

/-- `TYPE_FRAMED_ECC` (R7, R60). -/
def typeFramedEcc : Byte := 4#8

/-- `PREAMBLE` (R7; a default of the spec, log 10). -/
def preamble : Byte := 0xAA#8

/-- `SYNC0` (R7; a default of the spec, log 10). -/
def sync0 : Byte := 0x2D#8

/-- `SYNC1` (R7; a default of the spec, log 10). -/
def sync1 : Byte := 0xD4#8

/-- `TONE_ZERO` (R7). -/
def toneZero : Byte := 0x00#8

/-- `TONE_ONE` (R7). -/
def toneOne : Byte := 0xFF#8

/-- `TONE_ALT`, equal to `PREAMBLE` (R7; log 10). -/
def toneAlt : Byte := preamble

/-- `FREQ_MIN`, inclusive (R7; log 14). -/
def freqMin : Nat := 97

/-- `FREQ_MAX`, inclusive (R7; log 14). -/
def freqMax : Nat := 3903

/-- `FREQ_MASK` (R7; log 14). -/
def freqMask : Word := 0x0FFF#16

/-- `RX_LANE` (R7; log 13). -/
def rxLane : Config.Lane := .low

end Sys2Proof.Machine
end

