-- ==== Sys2Proof/Syntax.lean ====
section
/-! DEFINITION. Syntax.lean: the operation map of 30_encoding.md R66 and R67, one constructor per row of
spec/opcode_table.json, with the operands the row's own rule gives it. -/
namespace Sys2Proof

/-- The two selector spaces of R67: a row is identified by its format name and its code together. -/
inductive Format where
  /-- F-OP: a 4-bit operation select, issued by the host. -/
  | op
  /-- F-EVENT: the 3-bit code of `S.state`, with the input bit `attn`. -/
  | event
  deriving DecidableEq, Repr

/-- The rows of the operation map. -/
inductive Instr where
  /-- `INIT` (R88). -/
  | init
  /-- `TRANSMIT` (R91): a Packet given as its size byte, its type byte and its 64 payload bytes. -/
  | transmit (payloadSize ptype : Byte) (payload : List Byte)
  /-- `RECEIVE` (R97). -/
  | receive
  /-- `IS_IDLE` (R89). -/
  | isIdle
  /-- `IS_ALIVE` (R90). -/
  | isAlive
  /-- `SET_REGISTER` (R99). -/
  | setRegister (w : Word)
  /-- `SET_FREQUENCY` (R100). -/
  | setFrequency (v : Word)
  /-- `TX_ZERO` (R102). -/
  | txZero
  /-- `TX_ONE` (R103). -/
  | txOne
  /-- `TX_ALT` (R104). -/
  | txAlt
  /-- `RESET` (R105). -/
  | reset
  /-- `ENC_NIBBLE` (R76). -/
  | encNibble (v : Nibble)
  /-- `DEC_NIBBLE` (R77). -/
  | decNibble (s : Symbol)
  /-- `ENC_BYTE` (R78). -/
  | encByte (b : Byte)
  /-- `DEC_BYTE` (R79). -/
  | decByte (p : Word)
  /-- Operation select 0xF, reserved (R68 (a)). -/
  | reservedOpF
  /-- `BYTE_READY` in state code 0 (R123): `attn`, and the 16 bits the chip answers to the FIFO read. -/
  | byteReadyIdle (attn : Bool) (r : Word)
  /-- `BYTE_READY` in state code 1 (R124 to R127). -/
  | byteReadyTx (attn : Bool)
  /-- `BYTE_READY` in state code 2 (R128 to R133): `attn`, and the chip's answer to the FIFO read. -/
  | byteReadyRx (attn : Bool) (r : Word)
  /-- `BYTE_READY` in state code 3 (R134). -/
  | byteReadyTone0 (attn : Bool)
  /-- `BYTE_READY` in state code 4 (R135). -/
  | byteReadyTone1 (attn : Bool)
  /-- `BYTE_READY` in state code 5 (R136). -/
  | byteReadyToneA (attn : Bool)
  /-- State code 6, never held (R68 (b)). -/
  | reservedState6 (attn : Bool)
  /-- State code 7, never held (R68 (b)). -/
  | reservedState7 (attn : Bool)
  deriving DecidableEq, Repr

/-- The selector space a row belongs to (R66, R67). -/
def Instr.format : Instr → Format
  | .init => .op
  | .transmit _ _ _ => .op
  | .receive => .op
  | .isIdle => .op
  | .isAlive => .op
  | .setRegister _ => .op
  | .setFrequency _ => .op
  | .txZero => .op
  | .txOne => .op
  | .txAlt => .op
  | .reset => .op
  | .encNibble _ => .op
  | .decNibble _ => .op
  | .encByte _ => .op
  | .decByte _ => .op
  | .reservedOpF => .op
  | .byteReadyIdle _ _ => .event
  | .byteReadyTx _ => .event
  | .byteReadyRx _ _ => .event
  | .byteReadyTone0 _ => .event
  | .byteReadyTone1 _ => .event
  | .byteReadyToneA _ => .event
  | .reservedState6 _ => .event
  | .reservedState7 _ => .event

end Sys2Proof
end

