-- ==== Sys2Proof/WellFormed.lean ====
section
/-! DEFINITION. WellFormed.lean: what the operand types of `Instr` do not already say. The widths of all
other operands are in their types; the preconditions of `TRANSMIT` (R92) are checked by its meaning. -/
namespace Sys2Proof

/-- The payload of a Packet is 64 bytes, indexed 0 to 63 (20_memory.md R35). -/
def payloadLengthOk (payload : List Byte) : Bool := payload.length == 64

/-- An instruction is well formed when the Packet of `TRANSMIT` has a 64-byte payload (R35). -/
def Instr.wellFormed : Instr → Bool
  | .transmit _ _ payload => payloadLengthOk payload
  | .init => true
  | .receive => true
  | .isIdle => true
  | .isAlive => true
  | .setRegister _ => true
  | .setFrequency _ => true
  | .txZero => true
  | .txOne => true
  | .txAlt => true
  | .reset => true
  | .encNibble _ => true
  | .decNibble _ => true
  | .encByte _ => true
  | .decByte _ => true
  | .reservedOpF => true
  | .byteReadyIdle _ _ => true
  | .byteReadyTx _ => true
  | .byteReadyRx _ _ => true
  | .byteReadyTone0 _ => true
  | .byteReadyTone1 _ => true
  | .byteReadyToneA _ => true
  | .reservedState6 _ => true
  | .reservedState7 _ => true

end Sys2Proof
end

