-- ==== Sys2Proof/Decode.lean ====
section
/-! DEFINITION. Decode.lean: reading an instruction from bytes and writing it as bytes.

The spec gives an operation select of 4 bits and an event selector of 3 bits with the input bit `attn`
(30_encoding.md R66, R67) and no byte layout for the operands. The layout used here is the model's (log 7):
the selector byte first (bits above the selector zero; in the event space `attn` is bit 3), then the
operands, 16-bit operands low byte first (the link's order, 20_memory.md R42), a Packet in its nominal
layout (20_memory.md R38), a 4-bit operand in the low bits of a byte. -/
namespace Sys2Proof

/-- Why a byte list is no instruction. -/
inductive DecodeError where
  /-- The list is empty. -/
  | noBytes
  /-- The selector byte has a bit set outside the selector (log 7). -/
  | selectorBits
  /-- The list ends before the operands do. -/
  | truncated
  /-- The operand byte of `ENC_NIBBLE` has a bit above bit 3: "bits above bit 3 are never passed" (R76). -/
  | nibbleBits
  deriving DecidableEq, Repr

/-- What the decoder answers: the instruction and the bytes after it, or why there is none. -/
abbrev Decoded := Except DecodeError (Instr × List Byte)

/-- Bits 7:0 of a word. -/
def lowByteOf (w : Word) : Byte := w.extractLsb' 0 8

/-- Bits 15:8 of a word. -/
def highByteOf (w : Word) : Byte := w.extractLsb' 8 8

/-- The two bytes of a word, low byte first. -/
def wordBytes (w : Word) : List Byte := [lowByteOf w, highByteOf w]

/-- An operand of 8 bits. -/
def readByteOperand (build : Byte → Instr) : List Byte → Decoded
  | b :: rest => .ok (build b, rest)
  | [] => .error .truncated

/-- An operand of 16 bits, low byte first. -/
def readWordOperand (build : Word → Instr) : List Byte → Decoded
  | lo :: hi :: rest => .ok (build (hi ++ lo), rest)
  | _ => .error .truncated

/-- An operand of 4 bits, in the low bits of a byte. -/
def readNibbleOperand (build : Nibble → Instr) : List Byte → Decoded
  | b :: rest => if b.extractLsb' 4 4 = 0#4 then .ok (build (b.extractLsb' 0 4), rest) else .error .nibbleBits
  | [] => .error .truncated

/-- The Packet operand of `TRANSMIT` in the layout of 20_memory.md R38: size, type, 64 payload bytes. -/
def readPacketOperand (build : Byte → Byte → List Byte → Instr) : List Byte → Decoded
  | size :: ptype :: rest =>
    if 64 ≤ rest.length then .ok (build size ptype (rest.take 64), rest.drop 64) else .error .truncated
  | _ => .error .truncated

/-- The operation of a 4-bit select (R66), applied to the bytes after the selector. -/
def decodeOperation (op : Nibble) (rest : List Byte) : Decoded :=
  match op.toNat with
  | 0x0 => .ok (.init, rest)
  | 0x1 => readPacketOperand .transmit rest
  | 0x2 => .ok (.receive, rest)
  | 0x3 => .ok (.isIdle, rest)
  | 0x4 => .ok (.isAlive, rest)
  | 0x5 => readWordOperand .setRegister rest
  | 0x6 => readWordOperand .setFrequency rest
  | 0x7 => .ok (.txZero, rest)
  | 0x8 => .ok (.txOne, rest)
  | 0x9 => .ok (.txAlt, rest)
  | 0xA => .ok (.reset, rest)
  | 0xB => readNibbleOperand .encNibble rest
  | 0xC => readByteOperand .decNibble rest
  | 0xD => readByteOperand .encByte rest
  | 0xE => readWordOperand .decByte rest
  | _ => .ok (.reservedOpF, rest)

/-- The arm of a 3-bit state code (R67), applied to the bytes after the selector. -/
def decodeArm (code : BitVec 3) (attn : Bool) (rest : List Byte) : Decoded :=
  match code.toNat with
  | 0 => readWordOperand (.byteReadyIdle attn) rest
  | 1 => .ok (.byteReadyTx attn, rest)
  | 2 => readWordOperand (.byteReadyRx attn) rest
  | 3 => .ok (.byteReadyTone0 attn, rest)
  | 4 => .ok (.byteReadyTone1 attn, rest)
  | 5 => .ok (.byteReadyToneA attn, rest)
  | 6 => .ok (.reservedState6 attn, rest)
  | _ => .ok (.reservedState7 attn, rest)

/-- The decoder, total on every byte list, one selector space at a time (R67). -/
def decode (fmt : Format) (bytes : List Byte) : Decoded :=
  match bytes with
  | [] => .error .noBytes
  | b :: rest =>
    if b.extractLsb' 4 4 = 0#4 then
      match fmt with
      | .op => decodeOperation (b.extractLsb' 0 4) rest
      | .event => decodeArm (b.extractLsb' 0 3) (b.getLsbD 3) rest
    else .error .selectorBits

/-- The selector byte of an event: the state code in bits 2:0, `attn` in bit 3 (R67). -/
def eventSelector (code : BitVec 3) (attn : Bool) : Byte := 0x0#4 ++ (BitVec.ofBool attn ++ code)

/-- The bytes of an instruction, in the layout the decoder reads. -/
def encode : Instr → List Byte
  | .init => [0x00#8]
  | .transmit size ptype payload => 0x01#8 :: size :: ptype :: payload
  | .receive => [0x02#8]
  | .isIdle => [0x03#8]
  | .isAlive => [0x04#8]
  | .setRegister w => 0x05#8 :: wordBytes w
  | .setFrequency v => 0x06#8 :: wordBytes v
  | .txZero => [0x07#8]
  | .txOne => [0x08#8]
  | .txAlt => [0x09#8]
  | .reset => [0x0A#8]
  | .encNibble v => [0x0B#8, 0x0#4 ++ v]
  | .decNibble s => [0x0C#8, s]
  | .encByte b => [0x0D#8, b]
  | .decByte p => 0x0E#8 :: wordBytes p
  | .reservedOpF => [0x0F#8]
  | .byteReadyIdle attn r => eventSelector 0#3 attn :: wordBytes r
  | .byteReadyTx attn => [eventSelector 1#3 attn]
  | .byteReadyRx attn r => eventSelector 2#3 attn :: wordBytes r
  | .byteReadyTone0 attn => [eventSelector 3#3 attn]
  | .byteReadyTone1 attn => [eventSelector 4#3 attn]
  | .byteReadyToneA attn => [eventSelector 5#3 attn]
  | .reservedState6 attn => [eventSelector 6#3 attn]
  | .reservedState7 attn => [eventSelector 7#3 attn]

/-- How many bytes the longest instruction has: `TRANSMIT`, a selector and a Packet of 66 bytes. -/
def longestInstr : Nat := 67

/-- The bytes of a table word: the low `nbits` bits of `w`, then zeros up to the longest instruction, bit 0
of the table being bit 0 of the first byte. -/
def tableBytes (nbits w : Nat) : List Byte :=
  (List.range longestInstr).map fun k => BitVec.ofNat 8 ((w % 2 ^ nbits) >>> (8 * k))

/-- The selector space a table word is read in. The rows of F-EVENT have 3 bits and those of F-OP have 4;
the two spaces share their codes (R67), so a word of 4 bits or more is read as an operation (log 7). -/
def tableFormat (nbits : Nat) : Format := if nbits ≤ 3 then .event else .op

/-- The instruction the decoder reads from a table word. -/
def decodeTableWord (nbits w : Nat) : Option Instr :=
  match decode (tableFormat nbits) (tableBytes nbits w) with
  | .ok (i, _) => some i
  | .error _ => none

end Sys2Proof
end

