-- ==== Sys2Proof/Machine/State.lean ====
section
/-! DEFINITION. Machine/State.lean: the record `S` of 10_state.md R12 with the packet buffers of
20_memory.md R36, the model's own fields for calls, turns and results, the reasons a step can stop, and the
power-on state of 10_state.md R28. -/
namespace Sys2Proof.Machine

/-- `S.state` (R13): "one of" six values, numbered in the order of R14. -/
inductive DriverState where
  | idle
  | transmittingPacket
  | receivingPacket
  | transmitZero
  | transmitOne
  | transmitAlternating
  deriving DecidableEq, Repr

/-- The two receive buffers, `A` and `B` (20_memory.md R36). -/
inductive RxBuf where
  | A
  | B
  deriving DecidableEq, Repr

/-- The buffers that `MemRead` and `MemWrite` name: `A`, `B` and `T`, the transmit-staging buffer (R37). -/
inductive Buf where
  | A
  | B
  | T
  deriving DecidableEq, Repr

/-- An element of `S.out` (10_state.md R22). -/
inductive OutEvent where
  /-- One transfer of a 16-bit word by `XFER`. -/
  | bus (w : Word)
  /-- The chip-select line at the start of a byte-ready step. -/
  | csAssert
  /-- The chip-select line at the end of a byte-ready step. -/
  | csDeassert
  deriving DecidableEq, Repr

/-- The payload of a packet: (index, byte) pairs with rising indexes, listing exactly the bytes that differ
from `Memory.unlisted` (log 5). -/
abbrev Memory := List Host.Cell

/-- What an index that is not listed reads as. DESIGN CHOICE (log 5): the spec leaves the power-on
contents of the buffers unspecified (R28). -/
def Memory.unlisted : Byte := 0x00#8

/-- A Packet (20_memory.md R35). The type is a byte, not an enumeration: the receive path stores whatever
arrives (90_conflicts.md C7). -/
structure Packet where
  payloadSize : Byte
  ptype       : Byte
  payload     : Memory
  deriving DecidableEq, Repr

/-- The value a host operation returns (00_scope.md R11 (a), column "result" of 30_encoding.md R66). The
model's own (log 2). -/
inductive Result where
  /-- The operation returns nothing. -/
  | nothing
  /-- `IS_IDLE`, `IS_ALIVE`: 1 bit. -/
  | bit (b : Bool)
  /-- `RECEIVE`: an optional buffer name. -/
  | buffer (b : Option RxBuf)
  /-- `DEC_NIBBLE`: 4 bits. -/
  | nibble (v : Nibble)
  /-- `ENC_NIBBLE`, `DEC_BYTE`: 8 bits. -/
  | byte (b : Byte)
  /-- `ENC_BYTE`: 16 bits. -/
  | word (w : Word)
  deriving DecidableEq, Repr

/-- Which of its three steps the host performs next in `TRANSMIT` (41_host_operations.md R91). `t1` also
when no `TRANSMIT` is pending. The model's own (log 3). -/
inductive TxStep where
  | t1
  | t2
  | t3
  deriving DecidableEq, Repr

/-- Which agent moves next (00_scope.md R6, 20_memory.md R49). The model's own (log 1). -/
inductive Turn where
  /-- The host performs the next step of its current call. -/
  | host
  /-- The byte-ready event fires: `attn` is the sampled attention line, `r` what the chip answers if the
  arm reads the FIFO (42_byte_ready_step.md R120). -/
  | event (attn : Bool) (r : Word)
  deriving DecidableEq, Repr

/-- The whole state: the fields of `S` first, then the model's own. -/
@[ext]
structure State where
  /-- `S.state`, the driver state (R13). -/
  state     : DriverState
  /-- `S.pos`, the byte-position counter (R15; its width is log 18). -/
  pos       : Byte
  /-- `S.live`, the liveness flag (R16). -/
  live      : Bool
  /-- `S.ready`, the packet-ready flag (R17). -/
  ready     : Bool
  /-- `S.irqEn`, the byte-ready event source is enabled (R18). -/
  irqEn     : Bool
  /-- `S.active`, the receive buffer being filled (R19). -/
  active    : RxBuf
  /-- `S.finished`, the receive buffer last published (R20). -/
  finished  : RxBuf
  /-- `S.fifoUser`, the remembered FIFO sub-field (R21). -/
  fifoUser  : Word
  /-- `S.out`, the output history (R22). -/
  out       : List OutEvent
  /-- `S.rxA` (20_memory.md R36). -/
  rxA       : Packet
  /-- `S.rxB` (20_memory.md R36). -/
  rxB       : Packet
  /-- `S.tx`, the transmit-staging buffer (20_memory.md R36). -/
  tx        : Packet
  /-- What the last host operation returned (log 2). -/
  result    : Result
  /-- The next step of `TRANSMIT` (log 3). -/
  txStep    : TxStep
  /-- The host's calls that have not returned, as bytes (log 1). -/
  calls     : List Byte
  /-- Which agent moves next, and after it (log 1). -/
  turns     : List Turn
  /-- How many unspecified bytes have been read (log 6). -/
  freeReads : Nat
  deriving DecidableEq, Repr

/-- The faults of the model. The block has none (00_scope.md R11). -/
inductive Fault where
  /-- Raised by `MemWrite` with an index above 63, which "is not an access to some other field or buffer"
  (R37). Safe: no rule forms such an index while the invariants of R26 hold (log 20). -/
  | writeOutsidePayload (b : Buf) (index : Nat)
  deriving DecidableEq, Repr

/-- The refusals of the model: inputs to which the spec gives no next state (00_scope.md R11 (c)). -/
inductive Refusal where
  /-- Raised by `exec` for an instruction that has no meaning yet. Safe. No arm answers with it. -/
  | notModelled (mnemonic : String)
  /-- Raised by every framer operation but `INIT`, `IS_IDLE` and `IS_ALIVE` before the first `INIT`: "a
  model refuses them" (70_reset_and_hazards.md R171). Safe. -/
  | beforeInit
  /-- Raised by `TRANSMIT` when its packet breaks the preconditions of R92: "A model refuses such a call".
  Safe. -/
  | packetPrecondition
  /-- Raised by step T3 of `TRANSMIT` in a state other than `TransmittingPacket`: "this spec refuses T3"
  (R95). Safe. -/
  | transmitOvertaken
  /-- Raised by operation select 0xF: "no operation; a model refuses it" (30_encoding.md R68 (a)). Safe. -/
  | reservedOperation
  /-- Raised by the state codes 6 and 7: "never held; no arm" (30_encoding.md R68 (b)). Safe. -/
  | reservedStateCode
  /-- Raised by an event arm in a driver state that does not select it (30_encoding.md R67). Safe: `step`
  takes the arm's code from the driver state, so it never gives this answer (log 17). -/
  | armNotSelected
  /-- Raised by `step` when the host's call is no instruction. Safe (log 7). -/
  | undecodable (e : DecodeError)
  deriving DecidableEq, Repr

/-- A packet at power-on. DESIGN CHOICE (log 4): R28 leaves every field of it unspecified. -/
def Packet.powerOn : Packet := { payloadSize := 0x00#8, ptype := 0x00#8, payload := [] }

/-- The state at power-on, before `INIT` (10_state.md R28). `finished` and the three packets are values
the model names (log 4); the last five fields are the model's own (log 1, 2, 3, 6). -/
def State.reset : State where
  state     := .idle
  pos       := 0x00#8
  live      := false
  ready     := false
  irqEn     := false
  active    := .A
  finished  := .A
  fifoUser  := Config.fifoUserDefault
  out       := []
  rxA       := Packet.powerOn
  rxB       := Packet.powerOn
  tx        := Packet.powerOn
  result    := .nothing
  txStep    := .t1
  calls     := []
  turns     := []
  freeReads := 0

end Sys2Proof.Machine
end

