-- ==== Sys2Proof/Machine/Operands.lean ====
section
/-! DEFINITION. Machine/Operands.lean: operand assembly. Nibbles and bytes (30_encoding.md R64), symbol pairs
(R59), the packet type byte (R60), frame totals (00_scope.md R10), the frequency operand (R73), the lane of
a FIFO read (20_memory.md R44), buffer names (00_scope.md R9) and state codes (10_state.md R14). -/
namespace Sys2Proof.Machine

/-- The low nibble `b[3:0]` (R64). -/
def lowNibble (b : Byte) : Nibble := b.extractLsb' 0 4

/-- The high nibble `b[7:4]` (R64). -/
def highNibble (b : Byte) : Nibble := b.extractLsb' 4 4

/-- `hi :: lo` of two nibbles (R64). -/
def byteOfNibbles (hi lo : Nibble) : Byte := hi ++ lo

/-- The symbol pair: the symbol of the high nibble in bits 15:8, of the low nibble in bits 7:0 (R59). -/
def pairOfSymbols (hi lo : Symbol) : Word := hi ++ lo

/-- Bits 15:8 of a symbol pair (R59). -/
def highSymbol (p : Word) : Symbol := highByteOf p

/-- Bits 7:0 of a symbol pair (R59). -/
def lowSymbol (p : Word) : Symbol := lowByteOf p

/-- `isEcc(t)`: true exactly for 2 and 4 (R60; log 11). -/
def isEcc (t : Byte) : Bool := t == typeRawEcc || t == typeFramedEcc

/-- The multiplier `k(t)` (R60). -/
def multiplier (t : Byte) : Nat := if isEcc t then 2 else 1

/-- `total_tx` of a packet's size and type (R10, R124). -/
def txTotal (p : Packet) : Nat := txOverhead + p.payloadSize.toNat * multiplier p.ptype

/-- `total_rx` of a packet's size and type (R10, R129). -/
def rxTotal (p : Packet) : Nat := rxOverhead + p.payloadSize.toNat * multiplier p.ptype

/-- A size byte that `IDLE` accepts: "`0 < length ≤ max payload`" (R63). -/
def sizeOk (n : Byte) : Bool := 0 < n.toNat && n.toNat ≤ capacity

/-- The preconditions of `TRANSMIT` on its packet (R92). -/
def packetOk (size ptype : Byte) : Bool :=
  size.toNat ≤ capacity &&
    (ptype == typeRaw || ptype == typeRawEcc || ptype == typeFramed || ptype == typeFramedEcc)

/-- The frequency operand after the mask, 12 bits (R73). -/
def freqField (v : Word) : BitVec 12 := (v &&& freqMask).extractLsb' 0 12

/-- A legal frequency value (R73). -/
def freqOk (f : BitVec 12) : Bool := freqMin ≤ f.toNat && f.toNat ≤ freqMax

/-- The received byte in the chip's answer to a FIFO read (R44). -/
def receivedByte (r : Word) : Byte :=
  match rxLane with
  | .low => lowByteOf r
  | .high => highByteOf r

/-- The two bytes of a 16-bit transfer in the order the serial link carries them: bits 7:0 first, then bits
15:8 (20_memory.md R42). The order is the same in both directions. -/
def linkBytes (w : Word) : List Byte := [lowByteOf w, highByteOf w]

/-- The 16 bits of an answer, from the two bytes the link returns: the first received is bits 7:0, the second
bits 15:8 (20_memory.md R42). -/
def wordOfLink (first second : Byte) : Word := second ++ first

/-- What one element of the output history puts on the serial link: the bytes of a transfer, nothing for the
chip-select line (20_memory.md R42, R43). -/
def OutEvent.link : OutEvent → List Byte
  | .bus w => linkBytes w
  | .csAssert => []
  | .csDeassert => []

/-- The bus word that emits a byte: `CMD_TXWRITE OR zext_16(b)` (20_memory.md R45). -/
def txWriteWord (b : Byte) : Word := Config.cmdTxWrite ||| b.zeroExtend 16

/-- `other(A) = B`, `other(B) = A` (R9). -/
def RxBuf.other : RxBuf → RxBuf
  | .A => .B
  | .B => .A

/-- A receive buffer as a name for `MemRead` and `MemWrite` (R37). -/
def RxBuf.toBuf : RxBuf → Buf
  | .A => .A
  | .B => .B

/-- The test-tone states (00_scope.md, glossary). -/
def DriverState.isTone : DriverState → Bool
  | .idle => false
  | .transmittingPacket => false
  | .receivingPacket => false
  | .transmitZero => true
  | .transmitOne => true
  | .transmitAlternating => true

/-- The state codes of R14, the selectors of R67. -/
def DriverState.code : DriverState → BitVec 3
  | .idle => 0#3
  | .transmittingPacket => 1#3
  | .receivingPacket => 2#3
  | .transmitZero => 3#3
  | .transmitOne => 4#3
  | .transmitAlternating => 5#3

/-- The state of a code; the codes 6 and 7 have none (R14). -/
def DriverState.ofCode (c : BitVec 3) : Option DriverState :=
  match c.toNat with
  | 0 => some .idle
  | 1 => some .transmittingPacket
  | 2 => some .receivingPacket
  | 3 => some .transmitZero
  | 4 => some .transmitOne
  | 5 => some .transmitAlternating
  | _ => none

end Sys2Proof.Machine
end

