-- ==== Sys2Proof/Machine/Codec.lean ====
section
/-! DEFINITION. Machine/Codec.lean: the four pure functions of 40_fec_codec.md, over any code of
`Config.Code`, and the default tables of R75 and R85 that the machine uses (log 8, log 9). -/
namespace Sys2Proof.Machine

/-- `popcount` of a byte (00_scope.md R8). -/
def popcount (b : Byte) : Nat := (List.range 8).countP fun i => b.getLsbD i

/-- The Hamming distance of two bytes (00_scope.md R8). -/
def dist (a b : Byte) : Nat := popcount (a ^^^ b)

/-- The nibbles 0 to 15, in order. -/
def allNibbles : List Nibble := (List.range 16).map (BitVec.ofNat 4)

/-- `m` of R77: the least distance of the symbol from a codeword. -/
def minDist (c : Config.Code) (s : Symbol) : Nat :=
  (allNibbles.map fun v => dist s (c.enc v)).foldl min 8

/-- `near` of R77: the nibbles whose codewords are at that distance, in rising order. -/
def near (c : Config.Code) (s : Symbol) : List Nibble :=
  allNibbles.filter fun v => dist s (c.enc v) == minDist c s

/-- `ENC_NIBBLE` (R76). -/
def encodeNibble (c : Config.Code) (v : Nibble) : Symbol := c.enc v

/-- `DEC_NIBBLE` (R77). -/
def decodeNibble (c : Config.Code) (s : Symbol) : Nibble :=
  if minDist c s ≤ 1 then (near c s).headD 0#4 else c.dec s

/-- `ENC_BYTE` (R78). -/
def encodeByte (c : Config.Code) (b : Byte) : Word :=
  pairOfSymbols (encodeNibble c (highNibble b)) (encodeNibble c (lowNibble b))

/-- `DEC_BYTE` (R79). -/
def decodeByte (c : Config.Code) (p : Word) : Byte :=
  byteOfNibbles (decodeNibble c (highSymbol p)) (decodeNibble c (lowSymbol p))

/-- The default code table (R75). -/
def encTable : List Nat :=
  [0x00, 0xB1, 0xD2, 0x63, 0xE4, 0x55, 0x36, 0x87,
   0x78, 0xC9, 0xAA, 0x1B, 0x9C, 0x2D, 0x4E, 0xFF]

/-- The default decode table (R85), one list per row of the spec's table: sixteen entries, the symbol's low
digit rising. -/
def decTable : List (List Nat) :=
  [[0x0, 0x0, 0x0, 0x0, 0x0, 0x0, 0x0, 0x7, 0x0, 0x0, 0x0, 0xB, 0x0, 0xD, 0xE, 0x7],
   [0x0, 0x0, 0x0, 0xB, 0x0, 0x5, 0x6, 0x5, 0x0, 0xB, 0xB, 0xB, 0xC, 0x5, 0x6, 0xB],
   [0x0, 0x0, 0x0, 0x3, 0x0, 0xD, 0x6, 0x3, 0x0, 0xD, 0xA, 0x3, 0xD, 0xD, 0x6, 0xD],
   [0x0, 0x1, 0x6, 0x1, 0x6, 0x1, 0x6, 0x6, 0x8, 0x1, 0x6, 0xB, 0x6, 0xD, 0x6, 0x6],
   [0x0, 0x0, 0x0, 0x3, 0x0, 0x5, 0xE, 0x3, 0x0, 0x9, 0xE, 0x3, 0xE, 0x5, 0xE, 0xE],
   [0x0, 0x5, 0x2, 0x2, 0x5, 0x5, 0x2, 0x5, 0x8, 0x5, 0x2, 0xB, 0x5, 0x5, 0xE, 0x5],
   [0x0, 0x3, 0x3, 0x3, 0x4, 0x3, 0x3, 0x3, 0x8, 0x3, 0x3, 0x3, 0x4, 0xD, 0xE, 0x3],
   [0x8, 0x1, 0x2, 0x3, 0x4, 0x5, 0x6, 0x3, 0x8, 0x8, 0x8, 0x3, 0x8, 0x5, 0x6, 0xF],
   [0x0, 0x0, 0x0, 0x7, 0x0, 0x7, 0x7, 0x7, 0x0, 0x9, 0xA, 0x7, 0xC, 0x7, 0x7, 0x7],
   [0x0, 0x1, 0x2, 0x1, 0xC, 0x1, 0x2, 0x7, 0xC, 0x1, 0x2, 0xB, 0xC, 0xC, 0xC, 0x7],
   [0x0, 0x1, 0xA, 0x1, 0x4, 0x1, 0x4, 0x7, 0xA, 0x1, 0xA, 0xA, 0x4, 0xD, 0xA, 0x7],
   [0x1, 0x1, 0x1, 0x1, 0x1, 0x1, 0x6, 0x1, 0x1, 0x1, 0xA, 0x1, 0xC, 0x1, 0x6, 0xF],
   [0x0, 0x9, 0x2, 0x2, 0x4, 0x4, 0x2, 0x7, 0x9, 0x9, 0x2, 0x9, 0x4, 0x9, 0xE, 0x7],
   [0x2, 0x1, 0x2, 0x2, 0x2, 0x5, 0x2, 0x2, 0x2, 0x9, 0x2, 0x2, 0xC, 0x5, 0x2, 0xF],
   [0x4, 0x1, 0x2, 0x3, 0x4, 0x4, 0x4, 0x3, 0x4, 0x9, 0xA, 0x3, 0x4, 0x4, 0x4, 0xF],
   [0x1, 0x1, 0x2, 0x1, 0x4, 0x1, 0x2, 0xF, 0x8, 0x1, 0x2, 0xF, 0x4, 0xF, 0xF, 0xF]]

/-- The code the machine uses: the spec's default (R7, R75, R85). -/
def defaultCode : Config.Code where
  enc v := BitVec.ofNat 8 (encTable.getD v.toNat 0)
  dec s := BitVec.ofNat 4 ((decTable.getD (s.toNat / 16) []).getD (s.toNat % 16) 0)

end Sys2Proof.Machine
end

