-- ==== Sys2Proof/Machine/Flags.lean ====
section
/-! DEFINITION. Machine/Flags.lean: the one-bit state. There are no condition codes and no operation writes a
flag as a side effect of arithmetic: `live`, `ready` and `irqEn` are the only flags (10_state.md R29). -/
namespace Sys2Proof.Machine

/-- `S.live <- b` (R16). -/
def State.setLive (s : State) (b : Bool) : State := { s with live := b }

/-- `S.ready <- b` (R17). -/
def State.setReady (s : State) (b : Bool) : State := { s with ready := b }

/-- `S.irqEn <- b` (R18). -/
def State.setIrqEn (s : State) (b : Bool) : State := { s with irqEn := b }

end Sys2Proof.Machine
end

