-- ==== Sys2Proof/Machine/Ops.lean ====
section
/-! DEFINITION. Machine/Ops.lean: the named operations over the state. Payload memory and the primitives
`MemRead` and `MemWrite` (20_memory.md R37); the output history, the bus primitive and what is built on it
(R43 to R45); field updates; `chipReset()` (41_host_operations.md R105); the refusals before `INIT`
(70_reset_and_hazards.md R171); entering and leaving the byte-ready event, the block's one interrupt
(42_byte_ready_step.md R120 to R122, R138). -/
namespace Sys2Proof.Machine

/-- The outcomes of a step of this machine. -/
abbrev Outcome := Host.Outcome State Fault Refusal

/-- Go on with the next state, or stop as the first part stopped. -/
def andThen (o : Outcome) (k : State → Outcome) : Outcome :=
  match o with
  | .next s => k s
  | .fault r => .fault r
  | .refused r => .refused r

/-! ### Payload memory -/

/-- The byte at an index (R37). -/
def Memory.read : Memory → Nat → Byte
  | [], _ => Memory.unlisted
  | c :: m, i => if i = c.1 then c.2 else Memory.read m i

/-- The memory without the entries of an index. -/
def Memory.dropIndex (m : Memory) (i : Nat) : Memory := List.filter (fun c => c.1 != i) m

/-- A cell put before the first larger index. -/
def Memory.insertCell : Memory → Nat → Byte → Memory
  | [], i, v => [(i, v)]
  | c :: m, i, v => if i < c.1 then (i, v) :: c :: m else c :: Memory.insertCell m i v

/-- The byte at an index set (R37). Writing what an unlisted index reads as removes the entry. -/
def Memory.write (m : Memory) (i : Nat) (v : Byte) : Memory :=
  if v = Memory.unlisted then Memory.dropIndex m i else Memory.insertCell (Memory.dropIndex m i) i v

/-- `for i in 0..63: MemWrite(b, i, f(i))` on one payload (R95, R123). -/
def Memory.fill (m : Memory) (f : Nat → Byte) : Memory :=
  (List.range capacity).foldl (fun acc i => Memory.write acc i (f i)) m

/-- The canonical form: indexes strictly rising, all inside the payload, no entry equal to what an unlisted
index reads as. -/
abbrev Memory.wf (m : Memory) : Prop :=
  List.Pairwise (fun a b : Host.Cell => a.1 < b.1) m ∧
    ∀ c ∈ m, c.1 < capacity ∧ c.2 ≠ Memory.unlisted

/-- The nominal byte layout of a Packet: size, type, `payload[0]` to `payload[63]` (R38). -/
def Packet.bytes (p : Packet) : List Byte :=
  p.payloadSize :: p.ptype :: (List.range capacity).map (Memory.read p.payload)

/-! ### Packet buffers -/

/-- The packet of a buffer name (R37). -/
def State.packet (s : State) : Buf → Packet
  | .A => s.rxA
  | .B => s.rxB
  | .T => s.tx

/-- `buf(b)` (00_scope.md R9). -/
def State.buf (s : State) (b : RxBuf) : Packet := s.packet b.toBuf

/-- One buffer's packet replaced. -/
def State.setPacket (s : State) (b : Buf) (p : Packet) : State :=
  match b with
  | .A => { s with rxA := p }
  | .B => { s with rxB := p }
  | .T => { s with tx := p }

/-- `buf(b).payloadSize <- n`. -/
def State.setSize (s : State) (b : Buf) (n : Byte) : State :=
  s.setPacket b { s.packet b with payloadSize := n }

/-- `buf(b).type <- t`. -/
def State.setType (s : State) (b : Buf) (t : Byte) : State :=
  s.setPacket b { s.packet b with ptype := t }

/-- `for i in 0..63: MemWrite(b, i, f(i))`. -/
def State.fillPayload (s : State) (b : Buf) (f : Nat → Byte) : State :=
  s.setPacket b { s.packet b with payload := Memory.fill (s.packet b).payload f }

/-- `MemRead(b, i)` (R37). Past the payload the byte is unspecified: a free value (log 6). -/
def State.memRead (s : State) (b : Buf) (i : Nat) : Byte :=
  if i < capacity then Memory.read (s.packet b).payload i else Config.freeByte s.freeReads

/-- The state after `MemRead` at an index: an unspecified byte is read once only (log 6). -/
def State.afterRead (s : State) (i : Nat) : State :=
  if i < capacity then s else { s with freeReads := s.freeReads + 1 }

/-- `MemWrite(b, i, v)` (R37). No other field or buffer is reached by an index above 63 (log 20). -/
def State.memWrite (s : State) (b : Buf) (i : Nat) (v : Byte) : Outcome :=
  if i < capacity then
    .next (s.setPacket b { s.packet b with payload := Memory.write (s.packet b).payload i v })
  else .fault (.writeOutsidePayload b i)

/-! ### The output history and the bus -/

/-- Append to `S.out` (10_state.md R22). -/
def State.drive (s : State) (l : List OutEvent) : State := { s with out := s.out ++ l }

/-- `XFER(w)`: the transfer is appended to the history (R43). The 16 bits that come back are an input of
the step; only the FIFO reads use them (log 23). On the link the transfer is the two bytes `linkBytes w`
(R42; `State.linkOut`). -/
def State.xfer (s : State) (w : Word) : State := s.drive [.bus w]

/-- Every byte the block has put on the serial link, in order: each transfer of the history low byte first
(20_memory.md R42, 00_scope.md R3 (e)). A view of `S.out`, which records whole words (10_state.md R22). -/
def State.linkOut (s : State) : List Byte := s.out.flatMap OutEvent.link

/-- `emit(seq)`: `XFER` of each word in order, answers discarded (00_scope.md R9). -/
def State.emit (s : State) (ws : List Word) : State := s.drive (ws.map .bus)

/-- `txEmit(b)` (R45). -/
def State.txEmit (s : State) (b : Byte) : State := s.xfer (txWriteWord b)

/-- The transfer of a FIFO read (R44); the byte is `receivedByte` of the chip's answer. -/
def State.fifoRead (s : State) : State := s.xfer Config.cmdRxRead

/-! ### Field updates -/

/-- `S.state <- x`. -/
def State.setState (s : State) (x : DriverState) : State := { s with state := x }

/-- `S.pos <- n`. -/
def State.setPos (s : State) (n : Byte) : State := { s with pos := n }

/-- `S.active <- b`. -/
def State.setActive (s : State) (b : RxBuf) : State := { s with active := b }

/-- `S.finished <- b`. -/
def State.setFinished (s : State) (b : RxBuf) : State := { s with finished := b }

/-- `S.fifoUser <- u`. -/
def State.setFifoUser (s : State) (u : Word) : State := { s with fifoUser := u }

/-- The value the operation returns (log 2). -/
def State.setResult (s : State) (r : Result) : State := { s with result := r }

/-- The step of `TRANSMIT` the host performs next (log 3). -/
def State.setTxStep (s : State) (t : TxStep) : State := { s with txStep := t }

/-! ### Shared procedures -/

/-- `chipReset()` (41_host_operations.md R105): "unconditionally forces the chip and state machine back to
Idle/receiving". -/
def State.chipReset (s : State) : State :=
  ((s.emit (Config.seqReset s.fifoUser)).setState .idle).setPos 0x00#8

/-- `enterTone(X)` (R101): no re-arming between tone states. -/
def State.enterTone (s : State) (x : DriverState) : State :=
  if s.state.isTone then s.setState x else (s.setState x).emit Config.seqArmTx

/-- A framer operation other than `INIT`, `IS_IDLE` and `IS_ALIVE` before the first `INIT` is refused
(70_reset_and_hazards.md R171). `irqEn` is 0 exactly until `INIT` has run (10_state.md R18; log 15). -/
def State.initialized (s : State) (k : State → Outcome) : Outcome :=
  if s.irqEn then k s else .refused .beforeInit

/-- Entry of the event past the attention check: chip-select asserted, the liveness flag set (R120 (a), (c),
R122). -/
def State.eventEntry (s : State) : State := (s.drive [.csAssert]).setLive true

/-- Exit of the event: chip-select deasserted (R138). Nothing else is restored (60_exceptions.md R153). -/
def State.eventExit (s : State) : State := s.drive [.csDeassert]

/-- A spurious wake: the chip-select pulse and nothing else (R121). -/
def State.spuriousWake (s : State) : State := (s.drive [.csAssert]).drive [.csDeassert]

/-- The byte-ready step around one arm (R120). While `irqEn` is 0 an event has no step and changes nothing.
`own` is the driver state that selects the arm (30_encoding.md R67; log 17). -/
def State.byteReady (s : State) (own : DriverState) (attn : Bool) (arm : State → Outcome) : Outcome :=
  if s.irqEn then
    if attn then
      if s.state = own then andThen (arm s.eventEntry) (fun t => .next t.eventExit)
      else .refused .armNotSelected
    else .next s.spuriousWake
  else .next s

end Sys2Proof.Machine
end

