-- ==== Sys2Proof/Machine/ByteReady.lean ====
section
/-! DEFINITION. Machine/ByteReady.lean: the arms of the byte-ready step (42_byte_ready_step.md). The entry and
the exit around each arm are `State.byteReady` (R120). -/
namespace Sys2Proof.Machine

/-- The body of `BYTE_READY.IDLE` (R123). A bad size byte is the Desynchronization condition
(60_exceptions.md R142): the counter is cleared and the chip reset, no buffer is written. -/
def armIdle (r : Word) (s : State) : Outcome :=
  let s := s.fifoRead
  let rx := receivedByte r
  if sizeOk rx then
    let a := s.active.toBuf
    let s := s.setState .receivingPacket
    let s := s.setSize a rx
    let s := s.fillPayload a (fun _ => 0x00#8)
    .next (s.setPos 0x01#8)
  else
    let s := s.setPos 0x00#8
    .next s.chipReset

/-- `BYTE_READY.IDLE` (R123). -/
def execByteReadyIdle (attn : Bool) (r : Word) (s : State) : Outcome :=
  s.byteReady .idle attn (armIdle r)

/-- The payload index that frame offset `o` reads (R126, 30_encoding.md R64). -/
def frameIndex (ptype : Byte) (o : Nat) : Nat := if isEcc ptype then o / 2 else o

/-- The payload byte or symbol at frame offset `o`, also the trailing byte (R126). -/
def framePayloadByte (s : State) (o : Nat) : Byte :=
  let b := s.memRead .T (frameIndex s.tx.ptype o)
  if isEcc s.tx.ptype then
    encodeNibble defaultCode (if o % 2 = 0 then lowNibble b else highNibble b)
  else b

/-- `frameByte(pos)` (R125, R126). -/
def frameByte (s : State) (pos : Nat) : Byte :=
  match pos with
  | 0 => preamble
  | 1 => sync0
  | 2 => sync1
  | 3 => s.tx.payloadSize
  | 4 => s.tx.ptype
  | o + 5 => framePayloadByte s o

/-- The state after the read that `frameByte(pos)` makes (log 6). -/
def State.afterFrameRead (s : State) (pos : Nat) : State :=
  if pos < 5 then s else s.afterRead (frameIndex s.tx.ptype (pos - 5))

/-- The body of `BYTE_READY.TX`: the wrap-up event emits no data byte (R124, 90_conflicts.md C1), every
other event emits one byte and counts it (R125 to R127). -/
def armTx (s : State) : Outcome :=
  if s.pos.toNat = txTotal s.tx then
    .next (((s.emit (Config.seqToRx s.fifoUser)).setState .idle).setPos 0x00#8)
  else
    .next (((s.txEmit (frameByte s s.pos.toNat)).afterFrameRead s.pos.toNat).setPos (s.pos + 1#8))

/-- `BYTE_READY.TX` (R124 to R127). -/
def execByteReadyTx (attn : Bool) (s : State) : Outcome :=
  s.byteReady .transmittingPacket attn armTx

/-- `storeEcc(a, o, rx)` (R131). -/
def State.storeEcc (s : State) (a : Buf) (o : Nat) (rx : Symbol) : Outcome :=
  let v := decodeNibble defaultCode rx
  let old := s.memRead a (o / 2)
  s.memWrite a (o / 2)
    (old ||| if o % 2 = 0 then byteOfNibbles 0x0#4 v else byteOfNibbles v 0x0#4)

/-- `complete(a)` (R133), in the order of the rule: the pointer is published after the contents are
complete, the flag after the pointer (20_memory.md R50). -/
def State.complete (s : State) (a : RxBuf) : State :=
  let s := s.emit (Config.seqFifoClear s.fifoUser)
  let s := s.setFinished a
  let s := s.setReady true
  let s := s.setActive a.other
  let s := s.setState .idle
  let s := s.setPos 0x00#8
  s.setSize a.other.toBuf 0x00#8

/-- The counter and the completion test, after a payload byte is stored (R132): the incremented counter is
compared. -/
def State.countReceived (s : State) (a : RxBuf) (total : Nat) : State :=
  let s := s.setPos (s.pos + 1#8)
  if s.pos.toNat = total then s.complete a else s

/-- The body of `BYTE_READY.RX` (R128 to R133). `pos - RX_OVERHEAD` is taken only where `pos` is at least 2
(00_scope.md R10 (c)). With the counter at 0, which no reachable state has here (10_state.md R26 (b)), the
spec gives the arm no effect: the natural subtraction gives offset 0. DESIGN CHOICE (log 27). -/
def armRx (r : Word) (s : State) : Outcome :=
  let a := s.active
  let s := s.fifoRead
  let rx := receivedByte r
  if s.pos.toNat = 1 then
    .next ((s.setType a.toBuf rx).setPos 0x02#8)
  else
    let o := s.pos.toNat - rxOverhead
    let total := rxTotal (s.buf a)
    andThen (if isEcc (s.buf a).ptype then s.storeEcc a.toBuf o rx else s.memWrite a.toBuf o rx)
      (fun t => .next (t.countReceived a total))

/-- `BYTE_READY.RX` (R128 to R133). -/
def execByteReadyRx (attn : Bool) (r : Word) (s : State) : Outcome :=
  s.byteReady .receivingPacket attn (armRx r)

/-- `BYTE_READY.TONE0` (R134). -/
def execByteReadyTone0 (attn : Bool) (s : State) : Outcome :=
  s.byteReady .transmitZero attn fun s => .next (s.txEmit toneZero)

/-- `BYTE_READY.TONE1` (R135). -/
def execByteReadyTone1 (attn : Bool) (s : State) : Outcome :=
  s.byteReady .transmitOne attn fun s => .next (s.txEmit toneOne)

/-- `BYTE_READY.TONEA` (R136). -/
def execByteReadyToneA (attn : Bool) (s : State) : Outcome :=
  s.byteReady .transmitAlternating attn fun s => .next (s.txEmit toneAlt)

end Sys2Proof.Machine
end

