-- ==== Sys2Proof/Machine/CodecOps.lean ====
section
/-! DEFINITION. Machine/CodecOps.lean: the codec operations of 40_fec_codec.md as operations of the machine.
They read and write no field of `S` (10_state.md R23) and are usable before `INIT`
(70_reset_and_hazards.md R170). -/
namespace Sys2Proof.Machine

/-- `ENC_NIBBLE` (R76). -/
def execEncNibble (v : Nibble) (s : State) : Outcome :=
  .next (s.setResult (.byte (encodeNibble defaultCode v)))

/-- `DEC_NIBBLE` (R77). No error is signalled (R83). -/
def execDecNibble (sym : Symbol) (s : State) : Outcome :=
  .next (s.setResult (.nibble (decodeNibble defaultCode sym)))

/-- `ENC_BYTE` (R78). -/
def execEncByte (b : Byte) (s : State) : Outcome :=
  .next (s.setResult (.word (encodeByte defaultCode b)))

/-- `DEC_BYTE` (R79). -/
def execDecByte (p : Word) (s : State) : Outcome :=
  .next (s.setResult (.byte (decodeByte defaultCode p)))

end Sys2Proof.Machine
end

