-- ==== Sys2Proof/Machine/HostOps.lean ====
section
/-! DEFINITION. Machine/HostOps.lean: the framer operations of 41_host_operations.md. Each is one indivisible
step of the host (R87, log 19), except `TRANSMIT`, which is three (R91, log 3). -/
namespace Sys2Proof.Machine

/-- `INIT` (R88). -/
def execInit (s : State) : Outcome :=
  let s := s.setIrqEn false
  let s := s.setFifoUser Config.fifoUserDefault
  let s := s.emit (Config.seqInit s.fifoUser)
  let s := s.setActive .A
  let s := s.setSize .A 0x00#8
  let s := s.setSize .B 0x00#8
  let s := s.setPos 0x00#8
  let s := s.setState .idle
  let s := s.setReady false
  let s := s.setLive false
  let s := s.setIrqEn true
  .next (s.setResult .nothing)

/-- `IS_IDLE` (R89). -/
def execIsIdle (s : State) : Outcome :=
  .next (s.setResult (.bit (s.state == .idle)))

/-- `IS_ALIVE` (R90). The result 0 is the liveness-stall report (60_exceptions.md R146). -/
def execIsAlive (s : State) : Outcome :=
  .next ((s.setLive false).setResult (.bit (s.live || s.state == .idle)))

/-- Step T1 of `TRANSMIT`: leave a test tone (R93). -/
def State.transmitT1 (s : State) : State :=
  (if s.state.isTone then s.chipReset else s).setTxStep .t2

/-- Step T2 of `TRANSMIT`: acquire (R94). While the state is not `Idle` the step holds: the host's turn
passes and T2 stays pending (R96, log 3). -/
def State.transmitT2 (s : State) : State :=
  if s.state = .idle then (s.setState .transmittingPacket).setTxStep .t3 else s

/-- Step T3 of `TRANSMIT`: load and arm (R95). All 64 payload bytes are copied. -/
def State.transmitT3 (s : State) (size ptype : Byte) (payload : List Byte) : State :=
  let s := s.setSize .T size
  let s := s.setType .T ptype
  let s := s.fillPayload .T (fun i => payload.getD i 0x00#8)
  let s := s.setPos 0x00#8
  let s := s.emit Config.seqArmTx
  (s.setTxStep .t1).setResult .nothing

/-- `TRANSMIT` (R91 to R96): the host's next step of it. T3 is defined only in `TransmittingPacket`. The
preconditions of R92 are checked at each step (log 25). -/
def execTransmit (size ptype : Byte) (payload : List Byte) (s : State) : Outcome :=
  s.initialized fun s =>
    if packetOk size ptype then
      match s.txStep with
      | .t1 => .next s.transmitT1
      | .t2 => .next s.transmitT2
      | .t3 =>
        if s.state = .transmittingPacket then .next (s.transmitT3 size ptype payload)
        else .refused .transmitOvertaken
    else .refused .packetPrecondition

/-- `RECEIVE` (R97): the read of the flag, its clearing and the read of the pointer are one step. -/
def execReceive (s : State) : Outcome :=
  s.initialized fun s =>
    .next ((s.setReady false).setResult (.buffer (if s.ready then some s.finished else none)))

/-- The register write of `SET_REGISTER`, and the remembered sub-field (R99, R72). -/
def State.writeRegister (s : State) (w : Word) : State :=
  if Config.isFifoCtl w then
    (s.setFifoUser (w &&& Config.fifoUserMask)).xfer (Config.fifoCtlWord (w &&& Config.fifoUserMask))
  else s.xfer w

/-- `SET_REGISTER` (R99). -/
def execSetRegister (w : Word) (s : State) : Outcome :=
  s.initialized fun s => .next ((s.writeRegister w).setResult .nothing)

/-- The register write of `SET_FREQUENCY`; an illegal value is "silently ignored" (R100,
60_exceptions.md R143). -/
def State.writeFrequency (s : State) (v : Word) : State :=
  if freqOk (freqField v) then s.xfer (Config.freqCmd (freqField v)) else s

/-- `SET_FREQUENCY` (R100). -/
def execSetFrequency (v : Word) (s : State) : Outcome :=
  s.initialized fun s => .next ((s.writeFrequency v).setResult .nothing)

/-- `TX_ZERO` (R102). -/
def execTxZero (s : State) : Outcome :=
  s.initialized fun s => .next ((s.enterTone .transmitZero).setResult .nothing)

/-- `TX_ONE` (R103). -/
def execTxOne (s : State) : Outcome :=
  s.initialized fun s => .next ((s.enterTone .transmitOne).setResult .nothing)

/-- `TX_ALT` (R104). -/
def execTxAlt (s : State) : Outcome :=
  s.initialized fun s => .next ((s.enterTone .transmitAlternating).setResult .nothing)

/-- `RESET` (R105). -/
def execReset (s : State) : Outcome :=
  s.initialized fun s => .next (s.chipReset.setResult .nothing)

end Sys2Proof.Machine
end

