-- ==== Sys2Proof/Machine/Reserved.lean ====
section
/-! DEFINITION. Machine/Reserved.lean: the reserved rows of the operation map (30_encoding.md R68). -/
namespace Sys2Proof.Machine

/-- Operation select 0xF: "no operation; a model refuses it" (R68 (a)). -/
def execReservedOpF (_s : State) : Outcome := .refused .reservedOperation

/-- State code 6: "never held; no arm" (R68 (b)). -/
def execReservedState6 (_attn : Bool) (_s : State) : Outcome := .refused .reservedStateCode

/-- State code 7: "never held; no arm" (R68 (b)). -/
def execReservedState7 (_attn : Bool) (_s : State) : Outcome := .refused .reservedStateCode

end Sys2Proof.Machine
end

