-- ==== Sys2Proof/Machine/Dispatch.lean ====
section
/-! DEFINITION. Machine/Dispatch.lean: one arm per constructor of `Instr`. -/
namespace Sys2Proof.Machine

def exec (i : Instr) (s : State) : Host.Outcome State Fault Refusal :=
  match i with
  | .init => Sys2Proof.Machine.execInit s
  | .transmit size ptype payload => Sys2Proof.Machine.execTransmit size ptype payload s
  | .receive => Sys2Proof.Machine.execReceive s
  | .isIdle => Sys2Proof.Machine.execIsIdle s
  | .isAlive => Sys2Proof.Machine.execIsAlive s
  | .setRegister w => Sys2Proof.Machine.execSetRegister w s
  | .setFrequency v => Sys2Proof.Machine.execSetFrequency v s
  | .txZero => Sys2Proof.Machine.execTxZero s
  | .txOne => Sys2Proof.Machine.execTxOne s
  | .txAlt => Sys2Proof.Machine.execTxAlt s
  | .reset => Sys2Proof.Machine.execReset s
  | .encNibble v => Sys2Proof.Machine.execEncNibble v s
  | .decNibble sym => Sys2Proof.Machine.execDecNibble sym s
  | .encByte b => Sys2Proof.Machine.execEncByte b s
  | .decByte p => Sys2Proof.Machine.execDecByte p s
  | .reservedOpF => Sys2Proof.Machine.execReservedOpF s
  | .byteReadyIdle attn r => Sys2Proof.Machine.execByteReadyIdle attn r s
  | .byteReadyTx attn => Sys2Proof.Machine.execByteReadyTx attn s
  | .byteReadyRx attn r => Sys2Proof.Machine.execByteReadyRx attn r s
  | .byteReadyTone0 attn => Sys2Proof.Machine.execByteReadyTone0 attn s
  | .byteReadyTone1 attn => Sys2Proof.Machine.execByteReadyTone1 attn s
  | .byteReadyToneA attn => Sys2Proof.Machine.execByteReadyToneA attn s
  | .reservedState6 attn => Sys2Proof.Machine.execReservedState6 attn s
  | .reservedState7 attn => Sys2Proof.Machine.execReservedState7 attn s

end Sys2Proof.Machine
end

