-- ==== Sys2Proof/Machine/Fetch.lean ====
section
/-! DEFINITION. Machine/Fetch.lean: where the bytes of the next instruction stand, and what is used up when it
has run (log 1). The block fetches no instructions (20_memory.md R53); the next "instruction" is the host's
next call, or the arm that the driver state selects for an event (30_encoding.md R67). -/
namespace Sys2Proof.Machine

/-- The bytes of an event: the selector made of the state code and `attn` (R67), then the chip's answer,
which only the arms that read the FIFO take (R120). -/
def eventBytes (x : DriverState) (attn : Bool) (r : Word) : List Byte :=
  eventSelector x.code attn :: wordBytes r

/-- The selector space and the bytes of the next instruction; none when no agent moves, or when it is the
host's turn and it has nothing to call (log 21). -/
def State.fetch (s : State) : Option (Format × List Byte) :=
  match s.turns with
  | [] => none
  | .host :: _ => if s.calls.isEmpty then none else some (.op, s.calls)
  | .event attn r :: _ => some (.event, eventBytes s.state attn r)

/-- The turn is used up. -/
def State.endTurn (s : State) : State := { s with turns := s.turns.tail }

/-- The calls the host has left: the current call is dropped when it has returned, and stays while `TRANSMIT`
has a step to do (R86, R91). -/
def State.dropCall (s : State) (rest : List Byte) : State :=
  if s.txStep = .t1 then { s with calls := rest } else s

/-- What a step uses up after its instruction has run: the turn, and a host call that has returned. -/
def State.retire (s : State) (fmt : Format) (rest : List Byte) : State :=
  match fmt with
  | .op => (s.dropCall rest).endTurn
  | .event => s.endTurn

/-- The state in which a table word is the host's next call, and it is the host's turn. -/
def State.withCallWord (s : State) (nbits w : Nat) : State :=
  { s with calls := tableBytes nbits w, turns := .host :: s.turns, txStep := .t1 }

/-- The state in which the next turn is the event of a table word: the driver state has the word's code,
`attn` its bit 3, and the chip answers zero. A code that no state holds (R14) leaves the driver state. -/
def State.withEventWord (s : State) (nbits w : Nat) : State :=
  let word := w % 2 ^ nbits
  { s with
    state := (DriverState.ofCode (BitVec.ofNat 3 word)).getD s.state
    turns := .event (word.testBit 3) 0x0000#16 :: s.turns }

end Sys2Proof.Machine
end

