-- ==== Sys2Proof/Machine/Step.lean ====
section
/-! DEFINITION. Machine/Step.lean: one step of the agent whose turn it is (00_scope.md R6, 20_memory.md R49;
log 1). -/
namespace Sys2Proof.Machine

/-- One step: fetch, decode, execute, retire. With no agent to move nothing changes; a host that has nothing
to call passes its turn (log 21). -/
def step (s : State) : Host.Outcome State Fault Refusal :=
  match s.fetch with
  | none => .next s.endTurn
  | some (fmt, bytes) =>
    match decode fmt bytes with
    | .error e => .refused (.undecodable e)
    | .ok (i, rest) => andThen (exec i s) (fun t => .next (t.retire fmt rest))

/-- The state with a table word stored where `step` fetches its next instruction (log 1, log 7). -/
def State.withFetchWord (s : State) (nbits w : Nat) : State :=
  match tableFormat nbits with
  | .op => s.withCallWord nbits w
  | .event => s.withEventWord nbits w

end Sys2Proof.Machine
end

