-- ==== Sys2Proof/Safety.lean ====
section
/-! DEFINITION. Safety.lean: what counts as a good state and a good code, and the terms in which the claims
about frames and events are written. -/
namespace Sys2Proof.Safety

open Sys2Proof.Machine

/-- What the spec requires of a code, whatever table implements it (40_fec_codec.md R74), and of the choice
among equally near nibbles (R77). Property (e) of R74 follows from these. -/
structure CodeOk (c : Config.Code) : Prop where
  /-- (b) "every distinct nibble must map to a distinct symbol". -/
  injective : ∀ v w, c.enc v = c.enc w → v = w
  /-- (c) the distance between symbols of distinct nibbles is at least 3. -/
  distance : ∀ v w, v ≠ w → 3 ≤ dist (c.enc v) (c.enc w)
  /-- (d) the data bits are embedded at fixed, distinct bit positions. -/
  systematic : ∃ place : Fin 4 → Fin 8, Function.Injective place ∧
    ∀ (v : Nibble) (k : Fin 4), (c.enc v).getLsbD (place k).val = v.getLsbD k.val
  /-- The nibble returned for an uncorrectable symbol is a nearest one (R77). -/
  nearest : ∀ s, 2 ≤ minDist c s → c.dec s ∈ near c s

/-- The 3-bit syndrome `c2 :: c1 :: c0` of a symbol (R82). -/
def syndrome (s : Symbol) : BitVec 3 :=
  let bit (k : Nat) : Bool := s.getLsbD k
  BitVec.ofBool (bit 6 ^^ bit 1 ^^ bit 2 ^^ bit 3) ++
    (BitVec.ofBool (bit 5 ^^ bit 0 ^^ bit 2 ^^ bit 3) ++
      BitVec.ofBool (bit 4 ^^ bit 0 ^^ bit 1 ^^ bit 3))

/-- The overall parity of a symbol, false for every codeword (R82). -/
def oddParity (s : Symbol) : Bool :=
  let bit (k : Nat) : Bool := s.getLsbD k
  bit 7 ^^ bit 6 ^^ bit 5 ^^ bit 4 ^^ bit 3 ^^ bit 2 ^^ bit 1 ^^ bit 0

/-- The driver's invariant (10_state.md R26), with the counter's bound (00_scope.md R10), the canonical form of the
three payloads (log 5) and what holds before `INIT` (10_state.md R18, R28). R26 (e) and (f) speak of the
staging buffer only from the first T3 on; here they hold in every state, which before the first T3 rests on the
power-on size the model chose (log 4). -/
structure DriverInv (s : State) : Prop where
  /-- R26 (a). -/
  idle_pos : s.state = .idle → s.pos = 0x00#8
  /-- R26 (b). -/
  receiving : s.state = .receivingPacket →
    0 < (s.buf s.active).payloadSize.toNat ∧ (s.buf s.active).payloadSize.toNat ≤ 64 ∧
      (s.pos.toNat = 1 ∨ (2 ≤ s.pos.toNat ∧ s.pos.toNat < rxTotal (s.buf s.active)))
  /-- R26 (c). -/
  handoff : s.ready = true → s.finished = s.active.other
  /-- R26 (d). -/
  fifo : s.fifoUser &&& ~~~Config.fifoUserMask = 0x0000#16
  /-- R26 (e), buffer A. -/
  size_A : s.rxA.payloadSize.toNat ≤ 64
  /-- R26 (e), buffer B. -/
  size_B : s.rxB.payloadSize.toNat ≤ 64
  /-- R26 (e), the staging buffer. -/
  size_T : s.tx.payloadSize.toNat ≤ 64
  /-- R26 (f). -/
  transmitting : s.state = .transmittingPacket → s.pos.toNat ≤ txTotal s.tx
  /-- The counter never exceeds 134 (R10, R127). -/
  pos_le : s.pos.toNat ≤ 134
  /-- The payloads are in canonical form (log 5). -/
  mem_A : Memory.wf s.rxA.payload
  mem_B : Memory.wf s.rxB.payload
  mem_T : Memory.wf s.tx.payload
  /-- Before `INIT` the driver is `Idle` and nothing has been published (R18, R28). -/
  masked : s.irqEn = false → s.state = .idle ∧ s.ready = false

/-- Payload bytes past the size are zero while a packet is received and when it is handed over
(41_host_operations.md R98). -/
structure TailZero (s : State) : Prop where
  receiving : s.state = .receivingPacket → ∀ i, (s.buf s.active).payloadSize.toNat ≤ i →
    Memory.read (s.buf s.active).payload i = 0x00#8
  finished : s.ready = true → ∀ i, (s.buf s.finished).payloadSize.toNat ≤ i →
    Memory.read (s.buf s.finished).payload i = 0x00#8

/-- The instruction of an event in a driver state (30_encoding.md R67). -/
def eventInstr (x : DriverState) (attn : Bool) (r : Word) : Instr :=
  match x with
  | .idle => .byteReadyIdle attn r
  | .transmittingPacket => .byteReadyTx attn
  | .receivingPacket => .byteReadyRx attn r
  | .transmitZero => .byteReadyTone0 attn
  | .transmitOne => .byteReadyTone1 attn
  | .transmitAlternating => .byteReadyToneA attn

/-- The edges of the transition table with their causes and the counter after each
(42_byte_ready_step.md R137). -/
inductive Edge : Instr → State → State → Prop
  /-- any to `Idle`: `INIT`. -/
  | init {s t : State} : t.state = .idle → t.pos = 0x00#8 → Edge .init s t
  /-- any to `Idle`: `RESET`. -/
  | reset {s t : State} : t.state = .idle → t.pos = 0x00#8 → Edge .reset s t
  /-- tone to `Idle`: `TRANSMIT.T1`. -/
  | leaveTone {s t : State} {n k : Byte} {l : List Byte} :
      s.txStep = .t1 → s.state.isTone = true → t.state = .idle → t.pos = 0x00#8 → Edge (.transmit n k l) s t
  /-- `Idle` to `ReceivingPacket`: event, size byte 1 to 64. -/
  | sizeByte {s t : State} {r : Word} :
      s.state = .idle → 0 < (receivedByte r).toNat → (receivedByte r).toNat ≤ 64 →
      t.state = .receivingPacket → t.pos = 0x01#8 → Edge (.byteReadyIdle true r) s t
  /-- `Idle` to `Idle`: event, size byte 0 or above 64. -/
  | badSizeByte {s t : State} {r : Word} :
      s.state = .idle → ((receivedByte r).toNat = 0 ∨ 64 < (receivedByte r).toNat) →
      t.state = .idle → t.pos = 0x00#8 → Edge (.byteReadyIdle true r) s t
  /-- `ReceivingPacket` to itself: event, type byte or a payload byte that is not the last. -/
  | receive {s t : State} {r : Word} :
      s.state = .receivingPacket →
      (s.pos.toNat = 1 ∨ s.pos.toNat + 1 < rxTotal (s.buf s.active)) →
      t.state = .receivingPacket → t.pos = s.pos + 1#8 → Edge (.byteReadyRx true r) s t
  /-- `ReceivingPacket` to `Idle`: event, last payload byte. -/
  | received {s t : State} {r : Word} :
      s.state = .receivingPacket → s.pos.toNat + 1 = rxTotal (s.buf s.active) →
      t.state = .idle → t.pos = 0x00#8 → Edge (.byteReadyRx true r) s t
  /-- `Idle` to `TransmittingPacket`: `TRANSMIT.T2`. -/
  | acquire {s t : State} {n k : Byte} {l : List Byte} :
      s.txStep = .t2 → s.state = .idle → t.state = .transmittingPacket → t.pos = 0x00#8 →
      Edge (.transmit n k l) s t
  /-- `TransmittingPacket` to itself: event with `pos < total`. -/
  | emit {s t : State} :
      s.state = .transmittingPacket → s.pos.toNat < txTotal s.tx →
      t.state = .transmittingPacket → t.pos = s.pos + 1#8 → Edge (.byteReadyTx true) s t
  /-- `TransmittingPacket` to `Idle`: event with `pos = total`. -/
  | wrapUp {s t : State} :
      s.state = .transmittingPacket → s.pos.toNat = txTotal s.tx →
      t.state = .idle → t.pos = 0x00#8 → Edge (.byteReadyTx true) s t
  /-- any non-tone or tone state to a tone state: the tone operations. -/
  | toneZero {s t : State} : t.state = .transmitZero → t.pos = s.pos → Edge .txZero s t
  | toneOne {s t : State} : t.state = .transmitOne → t.pos = s.pos → Edge .txOne s t
  | toneAlt {s t : State} : t.state = .transmitAlternating → t.pos = s.pos → Edge .txAlt s t

/-- Events that pass the attention check, one for each answer of the chip, with no host step between. -/
def runEvents : List Word → State → Outcome
  | [], s => .next s
  | r :: rs, s => andThen (exec (eventInstr s.state true r) s) (runEvents rs)

/-- The chip-select line around what an event drives (42_byte_ready_step.md R120). -/
def bracket (ws : List Word) : List OutEvent := [.csAssert] ++ ws.map .bus ++ [.csDeassert]

/-- One emitting event for each byte (R45, R139). -/
def emission (bytes : List Byte) : List OutEvent := bytes.flatMap fun b => bracket [txWriteWord b]

/-- The payload of a packet as it goes on the air: verbatim, or two symbols a byte, the low nibble's first
(20_memory.md R41, 30_encoding.md R61). -/
def airData (ptype : Byte) (payload : List Byte) : List Byte :=
  if isEcc ptype then
    payload.flatMap fun b => [encodeNibble defaultCode (lowNibble b), encodeNibble defaultCode (highNibble b)]
  else payload

/-- The whole frame of a packet (R61), given the byte one past its payload. -/
def txFrame (size ptype : Byte) (payload : List Byte) (beyond : Byte) : List Byte :=
  [preamble, sync0, sync1, size, ptype] ++ airData ptype payload ++
    [if isEcc ptype then encodeNibble defaultCode (lowNibble beyond) else beyond]

/-- The first bytes of a packet's payload. -/
def payloadBytes (p : Packet) : List Byte :=
  (List.range p.payloadSize.toNat).map (Memory.read p.payload)

end Sys2Proof.Safety
end

