-- ==== Sys2Proof/Certificates/Slice0/Obligations.lean ====
section
/-! DEFINITION. The statements about the model. Each docstring names the rules of spec/ it formalises, or says
that it is the model's own choice and names the log entry. In the equations `exec i s = .next ..` every field
of the state that is not written out is unchanged. -/

open Sys2Proof Sys2Proof.Machine Sys2Proof.Safety

/-! ### Decoding -/

/-- Decoding an encoded well-formed instruction gives it back, with every byte after it left. The byte
layout is the model's choice (log 7). -/
def Obligations.DecodeOfEncodeGivesInstr : Prop :=
  ∀ (i : Instr) (rest : List Byte), i.wellFormed = true →
    decode i.format (encode i ++ rest) = .ok (i, rest)

/-- Every byte list that decodes is the encoding of the well-formed instruction it decodes to. The byte
layout is the model's choice (log 7). -/
def Obligations.DecodedBytesAreTheEncoding : Prop :=
  ∀ (fmt : Format) (bytes : List Byte) (i : Instr) (rest : List Byte),
    decode fmt bytes = .ok (i, rest) →
      i.wellFormed = true ∧ i.format = fmt ∧ bytes = encode i ++ rest

/-- Some words of the operation map (30_encoding.md R66, R67) decode to the operations they stand for. The
operand layout is the model's choice (log 7). -/
def Obligations.SampleWordsDecode : Prop :=
  decode .op [0x00#8] = .ok (.init, []) ∧
  decode .op [0x05#8, 0x34#8, 0x12#8] = .ok (.setRegister 0x1234#16, []) ∧
  decode .op [0x0B#8, 0x05#8] = .ok (.encNibble 0x5#4, []) ∧
  decode .op [0x0F#8] = .ok (.reservedOpF, []) ∧
  decode .event [0x08#8, 0x03#8, 0x00#8] = .ok (.byteReadyIdle true 0x0003#16, []) ∧
  decode .event [0x05#8] = .ok (.byteReadyToneA false, [])

/-! ### The step -/

/-- On the host's turn, when the host's call decodes to an instruction, the step is the instruction's own
effect, with its fault or refusal if it stops; then the turn is used up, and the call is dropped unless
`TRANSMIT` has a step left. Turns and calls are the model's own (log 1). -/
def Obligations.HostTurnRunsDecodedCall : Prop :=
  ∀ (s : State) (ts : List Turn) (i : Instr) (rest : List Byte),
    s.turns = .host :: ts → decode .op s.calls = .ok (i, rest) →
      step s = andThen (exec i s) (fun t =>
        .next { t with turns := t.turns.tail, calls := if t.txStep = .t1 then rest else t.calls })

/-- On an event's turn the step is the arm that the driver state selects (30_encoding.md R67), with the
event's inputs and its fault or refusal if it stops; then the turn is used up. Turns are the model's own
(log 1). -/
def Obligations.EventTurnRunsSelectedArm : Prop :=
  ∀ (s : State) (ts : List Turn) (attn : Bool) (r : Word),
    s.turns = .event attn r :: ts →
      step s = andThen (exec (eventInstr s.state attn r) s) (fun t => .next { t with turns := t.turns.tail })

/-- With no agent to move the state stays; a host with nothing to call passes its turn. The model's choice
(log 21). -/
def Obligations.NoTurnNoChange : Prop :=
  (∀ s : State, s.turns = [] → step s = .next s) ∧
  (∀ (s : State) (ts : List Turn), s.turns = .host :: ts → s.calls = [] → step s = .next { s with turns := ts })

/-- The step never runs an arm that the driver state does not select (30_encoding.md R67; log 17). -/
def Obligations.StepNeverMisselectsArm : Prop :=
  ∀ s : State, step s ≠ .refused .armNotSelected

/-! ### Invariants -/

/-- The power-on state meets the invariants. This rests on the power-on contents the model chose (log 4) for
the sizes and payloads; the rest is 10_state.md R28. -/
def Obligations.ResetMeetsInvariants : Prop := DriverInv State.reset ∧ TailZero State.reset

/-- Every step keeps the driver's invariant (10_state.md R26, with the counter's bound of 00_scope.md R10 and
the canonical form of the payloads, log 5). -/
def Obligations.StepKeepsDriverInvariant : Prop :=
  ∀ s t : State, DriverInv s → step s = .next t → DriverInv t

/-- Every step keeps the payload bytes past the size zero, in the packet being received and in the packet
handed over (41_host_operations.md R98). -/
def Obligations.StepKeepsZeroTail : Prop :=
  ∀ s t : State, DriverInv s → TailZero s → step s = .next t → TailZero t

/-- No step faults in a state that meets the invariant: no rule forms a write index above 63
(20_memory.md R37). -/
def Obligations.NoFaultUnderInvariant : Prop :=
  ∀ (s : State) (f : Fault), DriverInv s → step s ≠ .fault f

/-- The power-on values that the spec gives, and what `INIT` leaves after it (10_state.md R28). The values R28
leaves unspecified are not stated. -/
def Obligations.PowerOnAndAfterInit : Prop :=
  (State.reset.state = .idle ∧ State.reset.pos = 0x00#8 ∧ State.reset.live = false ∧
    State.reset.ready = false ∧ State.reset.irqEn = false ∧ State.reset.active = .A ∧
    State.reset.fifoUser = Config.fifoUserDefault ∧ State.reset.out = []) ∧
  ∃ t, exec .init State.reset = .next t ∧
    t.state = .idle ∧ t.pos = 0x00#8 ∧ t.live = false ∧ t.ready = false ∧ t.irqEn = true ∧ t.active = .A ∧
    t.finished = State.reset.finished ∧ t.fifoUser = Config.fifoUserDefault ∧
    t.out = (Config.seqInit Config.fifoUserDefault).map .bus ∧
    t.rxA.payloadSize = 0x00#8 ∧ t.rxB.payloadSize = 0x00#8 ∧
    t.rxA.ptype = State.reset.rxA.ptype ∧ t.rxB.ptype = State.reset.rxB.ptype ∧
    t.rxA.payload = State.reset.rxA.payload ∧ t.rxB.payload = State.reset.rxB.payload ∧ t.tx = State.reset.tx

/-! ### The codec -/

/-- `ENC_NIBBLE` returns the symbol of the default code, computed bit by bit (40_fec_codec.md R76,
30_encoding.md R58), and changes nothing else. -/
def Obligations.EncNibbleReturnsSymbol : Prop :=
  ∀ (v : Nibble) (s : State), ∃ y : Symbol, exec (.encNibble v) s = .next { s with result := .byte y } ∧
    y.getLsbD 0 = v.getLsbD 0 ∧ y.getLsbD 1 = v.getLsbD 1 ∧
    y.getLsbD 2 = v.getLsbD 2 ∧ y.getLsbD 3 = v.getLsbD 3 ∧
    y.getLsbD 4 = (v.getLsbD 0 ^^ v.getLsbD 1 ^^ v.getLsbD 3) ∧
    y.getLsbD 5 = (v.getLsbD 0 ^^ v.getLsbD 2 ^^ v.getLsbD 3) ∧
    y.getLsbD 6 = (v.getLsbD 1 ^^ v.getLsbD 2 ^^ v.getLsbD 3) ∧
    y.getLsbD 7 = (y.getLsbD 0 ^^ y.getLsbD 1 ^^ y.getLsbD 2 ^^ y.getLsbD 3 ^^
      y.getLsbD 4 ^^ y.getLsbD 5 ^^ y.getLsbD 6)

/-- The default code table, its distances, its even weights and its linearity (40_fec_codec.md R75). -/
def Obligations.DefaultCodeTable : Prop :=
  (List.range 16).map (fun n => encodeNibble defaultCode (BitVec.ofNat 4 n)) =
    [0x00#8, 0xB1#8, 0xD2#8, 0x63#8, 0xE4#8, 0x55#8, 0x36#8, 0x87#8,
     0x78#8, 0xC9#8, 0xAA#8, 0x1B#8, 0x9C#8, 0x2D#8, 0x4E#8, 0xFF#8] ∧
  ∀ v w : Nibble,
    (v ≠ w → dist (encodeNibble defaultCode v) (encodeNibble defaultCode w) = 4 ∨
      dist (encodeNibble defaultCode v) (encodeNibble defaultCode w) = 8) ∧
    popcount (encodeNibble defaultCode v) % 2 = 0 ∧
    encodeNibble defaultCode (v ^^^ w) = encodeNibble defaultCode v ^^^ encodeNibble defaultCode w

/-- `DEC_NIBBLE` (40_fec_codec.md R77). For any code meeting R74: the result is at the least distance `m`; for
`m` at most 1 it is the only such nibble; for larger `m` it is the decode table's entry. The operation uses
the default code, whose `m` is never above 2 and whose choice is the smallest of the nearest, and changes nothing but
the result. -/
def Obligations.DecNibbleReturnsNearest : Prop :=
  (∀ c : Config.Code, CodeOk c → ∀ y : Symbol,
    (∀ w, dist y (c.enc (decodeNibble c y)) ≤ dist y (c.enc w)) ∧
    (dist y (c.enc (decodeNibble c y)) ≤ 1 →
      ∀ w, dist y (c.enc w) = dist y (c.enc (decodeNibble c y)) → w = decodeNibble c y) ∧
    (2 ≤ dist y (c.enc (decodeNibble c y)) → decodeNibble c y = c.dec y)) ∧
  (∀ (y : Symbol) (s : State), ∃ v : Nibble, exec (.decNibble y) s = .next { s with result := .nibble v } ∧
    dist y (defaultCode.enc v) ≤ 2 ∧
    (∀ w, dist y (defaultCode.enc v) ≤ dist y (defaultCode.enc w)) ∧
    (∀ w, dist y (defaultCode.enc w) = dist y (defaultCode.enc v) → v.toNat ≤ w.toNat))

/-- The syndrome form of `DEC_NIBBLE` for the default code (40_fec_codec.md R82). -/
def Obligations.DecNibbleSyndromeForm : Prop :=
  ∀ (y : Symbol) (s : State), exec (.decNibble y) s = .next { s with
    result := .nibble (if oddParity y then
      y.extractLsb' 0 4 ^^^
        (if syndrome y = 0b011#3 then 0b0001#4
         else if syndrome y = 0b101#3 then 0b0010#4
         else if syndrome y = 0b110#3 then 0b0100#4
         else if syndrome y = 0b111#3 then 0b1000#4
         else 0b0000#4)
    else if syndrome y = 0b000#3 then y.extractLsb' 0 4
    else defaultCode.dec y) }

/-- The classification of the 256 symbols under the default code (40_fec_codec.md R84). -/
def Obligations.SymbolsClassified : Prop :=
  ((List.range 256).countP fun n => minDist defaultCode (BitVec.ofNat 8 n) = 0) = 16 ∧
  ((List.range 256).countP fun n => minDist defaultCode (BitVec.ofNat 8 n) = 1) = 128 ∧
  ((List.range 256).countP fun n => minDist defaultCode (BitVec.ofNat 8 n) = 2) = 112 ∧
  (∀ y : Symbol, minDist defaultCode y ≤ 2 ∧
    (minDist defaultCode y = 0 ↔ ∃ v, defaultCode.enc v = y) ∧
    (minDist defaultCode y = 1 → (near defaultCode y).length = 1) ∧
    (minDist defaultCode y = 2 → (near defaultCode y).length = 4) ∧
    (minDist defaultCode y = 2 ↔ oddParity y = false ∧ syndrome y ≠ 0b000#3)) ∧
  (∀ (v w : Nibble) (p q : Fin 8),
    defaultCode.enc v ^^^ (0x01#8 <<< p.val) = defaultCode.enc w ^^^ (0x01#8 <<< q.val) → v = w ∧ p = q)

/-- Every entry of the default decode table is the smallest of the nearest nibbles, and the decoder returns
it for every symbol (40_fec_codec.md R85). -/
def Obligations.DecodeTableSmallestNearest : Prop :=
  ∀ y : Symbol, defaultCode.dec y ∈ near defaultCode y ∧
    (∀ w ∈ near defaultCode y, (defaultCode.dec y).toNat ≤ w.toNat) ∧
    decodeNibble defaultCode y = defaultCode.dec y

/-- `ENC_BYTE`: the high nibble's symbol in bits 15:8, the low nibble's in bits 7:0; injective
(40_fec_codec.md R78, 30_encoding.md R59). -/
def Obligations.EncByteReturnsPair : Prop :=
  (∀ (b : Byte) (s : State), exec (.encByte b) s = .next { s with
    result := .word (encodeNibble defaultCode (b.extractLsb' 4 4) ++ encodeNibble defaultCode (b.extractLsb' 0 4)) }) ∧
  (∀ a b : Byte, encodeByte defaultCode a = encodeByte defaultCode b → a = b) ∧
  encodeByte defaultCode 0x00#8 = 0x0000#16 ∧ encodeByte defaultCode 0xFF#8 = 0xFFFF#16

/-- `DEC_BYTE`: the halves are decoded independently, so one flipped bit in each is corrected
(40_fec_codec.md R79). -/
def Obligations.DecByteDecodesHalves : Prop :=
  (∀ (p : Word) (s : State), exec (.decByte p) s = .next { s with
    result := .byte (decodeNibble defaultCode (p.extractLsb' 8 8) ++ decodeNibble defaultCode (p.extractLsb' 0 8)) }) ∧
  (∀ (b : Byte) (i j : Fin 8),
    decodeByte defaultCode (encodeByte defaultCode b ^^^ (0x0001#16 <<< i.val) ^^^ (0x0100#16 <<< j.val)) = b)

/-- Round trip, single-bit correction, byte round trip and distinct symbols, for every code meeting R74
(40_fec_codec.md R81), and the default code is one. -/
def Obligations.CodecCorrectsSingleBit : Prop :=
  CodeOk defaultCode ∧ ∀ c : Config.Code, CodeOk c →
    (∀ v : Nibble, decodeNibble c (encodeNibble c v) = v) ∧
    (∀ (v : Nibble) (p : Fin 8), decodeNibble c (encodeNibble c v ^^^ (0x01#8 <<< p.val)) = v) ∧
    (∀ b : Byte, decodeByte c (encodeByte c b) = b) ∧
    (∀ v w : Nibble, encodeNibble c v = encodeNibble c w → v = w)

/-- The codec operations read and write no field but the returned value: one argument, one result, in every
state (10_state.md R23). -/
def Obligations.CodecHoldsNoState : Prop :=
  ∀ i : Instr,
    ((∃ v, i = .encNibble v) ∨ (∃ y, i = .decNibble y) ∨ (∃ b, i = .encByte b) ∨ (∃ p, i = .decByte p)) →
      ∃ r : Result, ∀ s : State, exec i s = .next { s with result := r }

/-- The configuration is well formed (70_reset_and_hazards.md R172). -/
def Obligations.ConfigurationWellFormed : Prop :=
  CodeOk defaultCode ∧ (∀ y, defaultCode.dec y ∈ near defaultCode y) ∧
  Config.fifoUserDefault &&& ~~~Config.fifoUserMask = 0x0000#16 ∧
  Config.cmdTxWrite.extractLsb' 0 8 = 0x00#8 ∧
  freqMin ≤ freqMax ∧ freqMax ≤ freqMask.toNat

/-! ### Host operations -/

/-- `INIT` in every state (41_host_operations.md R88). -/
def Obligations.InitConfiguresDriver : Prop :=
  ∀ s : State, exec .init s = .next { s with
    irqEn := true
    fifoUser := Config.fifoUserDefault
    out := s.out ++ (Config.seqInit Config.fifoUserDefault).map .bus
    active := .A
    rxA := { s.rxA with payloadSize := 0x00#8 }
    rxB := { s.rxB with payloadSize := 0x00#8 }
    pos := 0x00#8
    state := .idle
    ready := false
    live := false
    result := .nothing }

/-- `IS_IDLE` returns 1 exactly in `Idle` and changes nothing else (41_host_operations.md R89). -/
def Obligations.IsIdleTestsState : Prop :=
  (∀ s : State, s.state = .idle → exec .isIdle s = .next { s with result := .bit true }) ∧
  (∀ s : State, s.state ≠ .idle → exec .isIdle s = .next { s with result := .bit false })

/-- The truth table of `IS_ALIVE` (41_host_operations.md R90; the result 0 is 60_exceptions.md R146). The operation
is one indivisible step, so the hazard R178 (a) of 70_reset_and_hazards.md is hidden (log 19). -/
def Obligations.IsAliveTruthTable : Prop :=
  (∀ s : State, s.live = true → exec .isAlive s = .next { s with live := false, result := .bit true }) ∧
  (∀ s : State, s.live = false → s.state = .idle → exec .isAlive s = .next { s with result := .bit true }) ∧
  (∀ s : State, s.live = false → s.state ≠ .idle → exec .isAlive s = .next { s with result := .bit false })

/-- Step T1 of `TRANSMIT`: out of a tone state by a chip reset, nothing in any other state
(41_host_operations.md R93). That T1 is a host turn of its own is log 3. -/
def Obligations.TransmitT1LeavesTone : Prop :=
  ∀ (s : State) (size ptype : Byte) (payload : List Byte),
    s.irqEn = true → s.txStep = .t1 → size.toNat ≤ 64 → 1 ≤ ptype.toNat → ptype.toNat ≤ 4 →
      exec (.transmit size ptype payload) s =
        if s.state = .transmitZero ∨ s.state = .transmitOne ∨ s.state = .transmitAlternating then
          .next { s with
            out := s.out ++ (Config.seqReset s.fifoUser).map .bus
            state := .idle, pos := 0x00#8, txStep := .t2 }
        else .next { s with txStep := .t2 }

/-- Step T2 of `TRANSMIT`: in `Idle` the state becomes `TransmittingPacket` and nothing else of `S` is
written; in any other state the step holds (41_host_operations.md R94). -/
def Obligations.TransmitT2AcquiresIdle : Prop :=
  ∀ (s : State) (size ptype : Byte) (payload : List Byte),
    s.irqEn = true → s.txStep = .t2 → size.toNat ≤ 64 → 1 ≤ ptype.toNat → ptype.toNat ≤ 4 →
      exec (.transmit size ptype payload) s =
        if s.state = .idle then .next { s with state := .transmittingPacket, txStep := .t3 } else .next s

/-- Step T3 of `TRANSMIT`: the whole packet is copied, the counter cleared, the transmitter armed; in a state
other than `TransmittingPacket` it is refused (41_host_operations.md R95). -/
def Obligations.TransmitT3LoadsAndArms : Prop :=
  ∀ (s : State) (size ptype : Byte) (payload : List Byte),
    s.irqEn = true → s.txStep = .t3 → size.toNat ≤ 64 → 1 ≤ ptype.toNat → ptype.toNat ≤ 4 →
      if s.state = .transmittingPacket then
        ∃ m : Memory, exec (.transmit size ptype payload) s = .next { s with
            tx := { payloadSize := size, ptype := ptype, payload := m }
            pos := 0x00#8
            out := s.out ++ Config.seqArmTx.map .bus
            txStep := .t1
            result := .nothing } ∧
          ∀ i, Memory.read m i = if i < 64 then payload.getD i 0x00#8 else Memory.read s.tx.payload i
      else exec (.transmit size ptype payload) s = .refused .transmitOvertaken

/-- `TRANSMIT` completes: from `Idle` or a tone state its three steps, with no event between them, load the
packet, arm the transmitter and return (41_host_operations.md R91 to R95). -/
def Obligations.TransmitCompletesFromIdleOrTone : Prop :=
  ∀ (s : State) (size ptype : Byte) (payload : List Byte),
    s.irqEn = true → s.txStep = .t1 → size.toNat ≤ 64 → 1 ≤ ptype.toNat → ptype.toNat ≤ 4 →
    s.state ≠ .receivingPacket → s.state ≠ .transmittingPacket →
      ∃ (t1 t2 : State) (m : Memory),
        exec (.transmit size ptype payload) s = .next t1 ∧
        exec (.transmit size ptype payload) t1 = .next t2 ∧
        exec (.transmit size ptype payload) t2 = .next { s with
          state := .transmittingPacket
          pos := 0x00#8
          tx := { payloadSize := size, ptype := ptype, payload := m }
          out := s.out ++ (if s.state = .idle then [] else (Config.seqReset s.fifoUser).map .bus) ++
            Config.seqArmTx.map .bus
          txStep := .t1
          result := .nothing } ∧
        ∀ i, Memory.read m i = if i < 64 then payload.getD i 0x00#8 else Memory.read s.tx.payload i

/-- `TRANSMIT` with a packet that breaks its preconditions is refused (41_host_operations.md R92). -/
def Obligations.TransmitRefusesBadPacket : Prop :=
  ∀ (s : State) (size ptype : Byte) (payload : List Byte), s.irqEn = true →
    (64 < size.toNat ∨ ptype.toNat = 0 ∨ 4 < ptype.toNat) →
      exec (.transmit size ptype payload) s = .refused .packetPrecondition

/-- A `TRANSMIT` at T2 holds for as many host turns as pass while the driver is not `Idle`: nothing but the
turns is used up, and the call stays (41_host_operations.md R96). -/
def Obligations.TransmitHoldsWhileNotIdle : Prop :=
  ∀ (n : Nat) (s : State) (ts : List Turn) (size ptype : Byte) (payload rest : List Byte),
    s.irqEn = true → s.txStep = .t2 → s.state ≠ .idle →
    size.toNat ≤ 64 → 1 ≤ ptype.toNat → ptype.toNat ≤ 4 →
    decode .op s.calls = .ok (.transmit size ptype payload, rest) →
    s.turns = List.replicate n .host ++ ts →
      (Sys2Proof.core.run n s : Outcome) = .next { s with turns := ts }

/-- Exactly one side wins `Idle` (20_memory.md R52, 41_host_operations.md R94): if the event's `IDLE` arm runs
first, T2 then holds; if T2 runs first, the event runs the `TX` arm and the driver stays
`TransmittingPacket`. -/
def Obligations.ExactlyOneSideWinsIdle : Prop :=
  ∀ (s : State) (size ptype : Byte) (payload : List Byte) (r : Word),
    DriverInv s → s.irqEn = true → s.txStep = .t2 → s.state = .idle →
    size.toNat ≤ 64 → 1 ≤ ptype.toNat → ptype.toNat ≤ 4 →
    0 < (r.extractLsb' 0 8).toNat → (r.extractLsb' 0 8).toNat ≤ 64 →
      (∃ u, exec (eventInstr s.state true r) s = .next u ∧ u.state = .receivingPacket ∧
        exec (.transmit size ptype payload) u = .next u) ∧
      (∃ v w, exec (.transmit size ptype payload) s = .next v ∧ v.state = .transmittingPacket ∧
        exec (eventInstr v.state true r) v = .next w ∧ w.state = .transmittingPacket ∧
        w.rxA = s.rxA ∧ w.rxB = s.rxB)

/-- `RECEIVE` consumes the packet-ready flag and returns the finished buffer's name, or returns nothing
(41_host_operations.md R97). -/
def Obligations.ReceiveConsumesReady : Prop :=
  ∀ s : State, s.irqEn = true →
    exec .receive s =
      if s.ready then .next { s with ready := false, result := .buffer (some s.finished) }
      else .next { s with result := .buffer none }

/-- `SET_REGISTER` (41_host_operations.md R99): a word for the FIFO-control register is merged and its user
bits remembered, and the merged word carries them (30_encoding.md R72); every other word passes through. The
operation is one indivisible step, so the hazard R178 (c) of 70_reset_and_hazards.md is hidden (log 19). -/
def Obligations.SetRegisterForwardsOrMerges : Prop :=
  (∀ (s : State) (w : Word), s.irqEn = true →
    exec (.setRegister w) s =
      if Config.isFifoCtl w then
        .next { s with
          fifoUser := w &&& Config.fifoUserMask
          out := s.out ++ [.bus (Config.fifoCtlWord (w &&& Config.fifoUserMask))]
          result := .nothing }
      else .next { s with out := s.out ++ [.bus w], result := .nothing }) ∧
  (∀ w : Word, Config.fifoCtlWord (w &&& Config.fifoUserMask) &&& Config.fifoUserMask =
    w &&& Config.fifoUserMask)

/-- `SET_FREQUENCY` masks to 12 bits, then writes the command for 97 to 3903 and ignores every other value
(41_host_operations.md R100, 30_encoding.md R73, 60_exceptions.md R143). -/
def Obligations.SetFrequencyMasksThenChecks : Prop :=
  ∀ (s : State) (v : Word), s.irqEn = true →
    exec (.setFrequency v) s =
      if 97 ≤ v.toNat % 4096 ∧ v.toNat % 4096 ≤ 3903 then
        .next { s with
          out := s.out ++ [.bus (Config.freqCmd (BitVec.ofNat 12 (v.toNat % 4096)))]
          result := .nothing }
      else .next { s with result := .nothing }

/-- The tone operations enter their states from any state, arming the transmitter exactly when the old state
is not a tone state (41_host_operations.md R101 to R104). -/
def Obligations.ToneOperationsEnterTone : Prop :=
  ∀ (s : State) (i : Instr) (x : DriverState), s.irqEn = true →
    (i = .txZero ∧ x = .transmitZero) ∨ (i = .txOne ∧ x = .transmitOne) ∨
      (i = .txAlt ∧ x = .transmitAlternating) →
    exec i s =
      if s.state = .transmitZero ∨ s.state = .transmitOne ∨ s.state = .transmitAlternating then
        .next { s with state := x, result := .nothing }
      else .next { s with state := x, out := s.out ++ Config.seqArmTx.map .bus, result := .nothing }

/-- `RESET` re-issues the sequence with the remembered sub-field, forces `Idle` and clears the counter, and
leaves everything else (41_host_operations.md R105). -/
def Obligations.ResetForcesIdle : Prop :=
  ∀ s : State, s.irqEn = true →
    exec .reset s = .next { s with
      out := s.out ++ (Config.seqReset s.fifoUser).map .bus
      state := .idle
      pos := 0x00#8
      result := .nothing }

/-- Before the first `INIT` the framer operations are refused, and `IS_IDLE` and `IS_ALIVE` return 1
(70_reset_and_hazards.md R171). That "before `INIT`" is `irqEn = 0` is log 15. -/
def Obligations.BeforeInitRefused : Prop :=
  ∀ s : State, DriverInv s → s.irqEn = false →
    (∀ size ptype payload, exec (.transmit size ptype payload) s = .refused .beforeInit) ∧
    exec .receive s = .refused .beforeInit ∧
    (∀ w, exec (.setRegister w) s = .refused .beforeInit) ∧
    (∀ v, exec (.setFrequency v) s = .refused .beforeInit) ∧
    exec .txZero s = .refused .beforeInit ∧ exec .txOne s = .refused .beforeInit ∧
    exec .txAlt s = .refused .beforeInit ∧ exec .reset s = .refused .beforeInit ∧
    (∃ t, exec .isIdle s = .next t ∧ t.result = .bit true) ∧
    (∃ t, exec .isAlive s = .next t ∧ t.result = .bit true)

/-! ### The byte-ready event -/

/-- A spurious wake pulses chip-select and changes nothing else, in every driver state
(42_byte_ready_step.md R121). -/
def Obligations.SpuriousWakeOnlyPulsesSelect : Prop :=
  ∀ (s : State) (x : DriverState) (r : Word), s.irqEn = true →
    exec (eventInstr x false r) s = .next { s with out := s.out ++ [.csAssert, .csDeassert] }

/-- While the event source is disabled an event changes nothing (42_byte_ready_step.md R120). That it is not
remembered is log 16. -/
def Obligations.DisabledEventChangesNothing : Prop :=
  ∀ (s : State) (x : DriverState) (attn : Bool) (r : Word), s.irqEn = false →
    exec (eventInstr x attn r) s = .next s

/-- Every event that passes the attention check sets the liveness flag, whatever the arm does
(42_byte_ready_step.md R122). -/
def Obligations.EventSetsLiveness : Prop :=
  ∀ (s : State) (r : Word), DriverInv s → s.irqEn = true →
    ∃ t, exec (eventInstr s.state true r) s = .next t ∧ t.live = true

/-- What an event drives: chip-select around the transfers of its arm (42_byte_ready_step.md R138), and which
transfers these are (R139). An event returns nothing. -/
def Obligations.EventBusTransfers : Prop :=
  ∀ (s t : State) (r : Word), s.irqEn = true → exec (eventInstr s.state true r) s = .next t →
    t.result = s.result ∧
    ∃ ws : List Word, t.out = s.out ++ [.csAssert] ++ ws.map .bus ++ [.csDeassert] ∧
      match s.state with
      | .idle =>
        ws = Config.cmdRxRead ::
          (if 0 < (r.extractLsb' 0 8).toNat ∧ (r.extractLsb' 0 8).toNat ≤ 64 then []
           else Config.seqReset s.fifoUser)
      | .transmittingPacket =>
        if t.state = .idle then ws = Config.seqToRx s.fifoUser
        else ∃ b : Byte, ws = [Config.cmdTxWrite ||| b.zeroExtend 16]
      | .receivingPacket =>
        ws = Config.cmdRxRead :: (if t.state = .idle then Config.seqFifoClear s.fifoUser else [])
      | .transmitZero => ∃ b : Byte, ws = [Config.cmdTxWrite ||| b.zeroExtend 16]
      | .transmitOne => ∃ b : Byte, ws = [Config.cmdTxWrite ||| b.zeroExtend 16]
      | .transmitAlternating => ∃ b : Byte, ws = [Config.cmdTxWrite ||| b.zeroExtend 16]

/-- The `IDLE` arm (42_byte_ready_step.md R123): a size byte 1 to 64 starts a reception with the payload zeroed;
any other is the Desynchronization condition (60_exceptions.md R142): a chip reset, no buffer written. -/
def Obligations.IdleArmTakesSizeByte : Prop :=
  ∀ (s : State) (r : Word), s.irqEn = true → s.state = .idle →
    if 0 < (r.extractLsb' 0 8).toNat ∧ (r.extractLsb' 0 8).toNat ≤ 64 then
      ∃ m : Memory,
        exec (.byteReadyIdle true r) s = .next (({ s with
          live := true
          state := .receivingPacket
          pos := 0x01#8
          out := s.out ++ [.csAssert, .bus Config.cmdRxRead, .csDeassert] } : State).setPacket s.active.toBuf
            { s.buf s.active with payloadSize := r.extractLsb' 0 8, payload := m }) ∧
        ∀ i, Memory.read m i = if i < 64 then 0x00#8 else Memory.read (s.buf s.active).payload i
    else
      exec (.byteReadyIdle true r) s = .next { s with
        live := true
        pos := 0x00#8
        state := .idle
        out := s.out ++ [.csAssert, .bus Config.cmdRxRead] ++ (Config.seqReset s.fifoUser).map .bus ++
          [.csDeassert] }

/-- The `TX` arm at the total: the switch back to receive, no data byte, `Idle` and counter 0
(42_byte_ready_step.md R124; 90_conflicts.md C1). -/
def Obligations.TxArmWrapsUpAtTotal : Prop :=
  ∀ s : State, s.irqEn = true → s.state = .transmittingPacket →
    s.pos.toNat = 6 + s.tx.payloadSize.toNat * (if s.tx.ptype = 2#8 ∨ s.tx.ptype = 4#8 then 2 else 1) →
      exec (.byteReadyTx true) s = .next { s with
        live := true
        state := .idle
        pos := 0x00#8
        out := s.out ++ [.csAssert] ++ (Config.seqToRx s.fifoUser).map .bus ++ [.csDeassert] }

/-- The `TX` arm at positions 0 to 4 emits preamble, synchronization bytes, size and type and counts
(42_byte_ready_step.md R125). -/
def Obligations.TxArmEmitsHeader : Prop :=
  ∀ s : State, s.irqEn = true → s.state = .transmittingPacket → s.pos.toNat ≤ 4 →
    exec (.byteReadyTx true) s = .next { s with
      live := true
      pos := s.pos + 1#8
      out := s.out ++ [.csAssert, .bus (Config.cmdTxWrite |||
        ([preamble, sync0, sync1, s.tx.payloadSize, s.tx.ptype].getD s.pos.toNat 0x00#8).zeroExtend 16),
        .csDeassert] }

/-- The `TX` arm at the positions from 5 below the total emits the payload byte, or the symbol of its low and
then its high nibble, and counts (42_byte_ready_step.md R126, R127). Past the 64 bytes of the buffer the byte
is a free value, and the statement holds for every value of it (log 6). -/
def Obligations.TxArmEmitsPayload : Prop :=
  ∀ s : State, s.irqEn = true → s.state = .transmittingPacket → 5 ≤ s.pos.toNat →
    s.pos.toNat ≠ 6 + s.tx.payloadSize.toNat * (if s.tx.ptype = 2#8 ∨ s.tx.ptype = 4#8 then 2 else 1) →
      let ecc : Bool := s.tx.ptype = 2#8 ∨ s.tx.ptype = 4#8
      let o := s.pos.toNat - 5
      let i := if ecc then o / 2 else o
      let b := if i < 64 then Memory.read s.tx.payload i else Config.freeByte s.freeReads
      let y := if ecc then
          encodeNibble defaultCode (if o % 2 = 0 then b.extractLsb' 0 4 else b.extractLsb' 4 4)
        else b
      exec (.byteReadyTx true) s = .next { s with
        live := true
        pos := s.pos + 1#8
        out := s.out ++ [.csAssert, .bus (Config.cmdTxWrite ||| y.zeroExtend 16), .csDeassert]
        freeReads := if i < 64 then s.freeReads else s.freeReads + 1 }

/-- The `RX` arm at counter 1 stores the type byte unchecked and does nothing else with it
(42_byte_ready_step.md R128). -/
def Obligations.RxArmStoresTypeByte : Prop :=
  ∀ (s : State) (r : Word), s.irqEn = true → s.state = .receivingPacket → s.pos.toNat = 1 →
    exec (.byteReadyRx true r) s = .next (({ s with
      live := true
      pos := 0x02#8
      out := s.out ++ [.csAssert, .bus Config.cmdRxRead, .csDeassert] } : State).setPacket s.active.toBuf
        { s.buf s.active with ptype := r.extractLsb' 0 8 })

/-- The `RX` arm on a payload byte that is not the last: a raw byte is stored at `pos - 2`, a symbol's nibble
is ORed into the low or high half of byte `(pos - 2) / 2`, and the counter goes on (42_byte_ready_step.md R130,
R131, R132). -/
def Obligations.RxArmStoresPayload : Prop :=
  ∀ (s : State) (r : Word), s.irqEn = true → s.state = .receivingPacket → 2 ≤ s.pos.toNat →
    let p := s.buf s.active
    let ecc : Bool := p.ptype = 2#8 ∨ p.ptype = 4#8
    let o := s.pos.toNat - 2
    let i := if ecc then o / 2 else o
    let v := decodeNibble defaultCode (r.extractLsb' 0 8)
    let y := if ecc then
        Memory.read p.payload i ||| (if o % 2 = 0 then v.zeroExtend 8 else v.zeroExtend 8 <<< 4)
      else r.extractLsb' 0 8
    i < 64 → (s.pos + 1#8).toNat ≠ 2 + p.payloadSize.toNat * (if ecc then 2 else 1) →
      ∃ m : Memory,
        exec (.byteReadyRx true r) s = .next (({ s with
          live := true
          pos := s.pos + 1#8
          out := s.out ++ [.csAssert, .bus Config.cmdRxRead, .csDeassert] } : State).setPacket s.active.toBuf
            { p with payload := m }) ∧
        ∀ j, Memory.read m j = if j = i then y else Memory.read p.payload j

/-- The `RX` arm on the last payload byte: the byte is stored, the FIFO cleared, the buffer published, the
flag set, the buffers swapped, and the new active buffer's size cleared (42_byte_ready_step.md R133). -/
def Obligations.RxArmCompletesPacket : Prop :=
  ∀ (s : State) (r : Word), s.irqEn = true → s.state = .receivingPacket → 2 ≤ s.pos.toNat →
    let p := s.buf s.active
    let ecc : Bool := p.ptype = 2#8 ∨ p.ptype = 4#8
    let o := s.pos.toNat - 2
    let i := if ecc then o / 2 else o
    let v := decodeNibble defaultCode (r.extractLsb' 0 8)
    let y := if ecc then
        Memory.read p.payload i ||| (if o % 2 = 0 then v.zeroExtend 8 else v.zeroExtend 8 <<< 4)
      else r.extractLsb' 0 8
    i < 64 → (s.pos + 1#8).toNat = 2 + p.payloadSize.toNat * (if ecc then 2 else 1) →
      ∃ m : Memory,
        exec (.byteReadyRx true r) s = .next ((({ s with
          live := true
          pos := 0x00#8
          state := .idle
          finished := s.active
          ready := true
          active := s.active.other
          out := s.out ++ [.csAssert, .bus Config.cmdRxRead] ++ (Config.seqFifoClear s.fifoUser).map .bus ++
            [.csDeassert] } : State).setPacket s.active.toBuf { p with payload := m }).setPacket
              s.active.other.toBuf { s.buf s.active.other with payloadSize := 0x00#8 }) ∧
        ∀ j, Memory.read m j = if j = i then y else Memory.read p.payload j

/-- The tone arms emit their byte and change nothing but the liveness flag: the states never self-terminate
(42_byte_ready_step.md R134 to R136). -/
def Obligations.ToneArmsRepeatByte : Prop :=
  ∀ (s : State) (i : Instr) (b : Byte), s.irqEn = true →
    (s.state = .transmitZero ∧ i = .byteReadyTone0 true ∧ b = 0x00#8) ∨
      (s.state = .transmitOne ∧ i = .byteReadyTone1 true ∧ b = 0xFF#8) ∨
      (s.state = .transmitAlternating ∧ i = .byteReadyToneA true ∧ b = 0xAA#8) →
    exec i s = .next { s with
      live := true
      out := s.out ++ [.csAssert, .bus (Config.cmdTxWrite ||| b.zeroExtend 16), .csDeassert] }

/-! ### Rules over all instructions -/

/-- The transition table (42_byte_ready_step.md R137): every step that changes the driver state or the counter
is an edge of it, except that step T3 of `TRANSMIT` clears the counter. -/
def Obligations.OnlyTableEdges : Prop :=
  ∀ (i : Instr) (s t : State), DriverInv s → exec i s = .next t →
    Edge i s t ∨
    (t.state = s.state ∧ t.pos = s.pos) ∨
    (t.state = .transmittingPacket ∧ t.pos = 0x00#8 ∧ s.state = .transmittingPacket ∧ s.txStep = .t3 ∧
      ∃ size ptype payload, i = .transmit size ptype payload)

/-- Who writes what (10_state.md R27, R16, R17, R18, R21). The last clause, that no operation writes the calls
or the turns, is about fields of the model's own and is the model's choice (log 1). -/
def Obligations.FieldWriters : Prop :=
  ∀ (i : Instr) (s t : State), exec i s = .next t →
    (t.live ≠ s.live → (t.live = true ∧ i.format = .event) ∨ (t.live = false ∧ (i = .isAlive ∨ i = .init))) ∧
    (t.ready ≠ s.ready → (t.ready = true ∧ i.format = .event) ∨ (t.ready = false ∧ (i = .receive ∨ i = .init))) ∧
    (t.irqEn ≠ s.irqEn → t.irqEn = true ∧ i = .init) ∧
    (t.active ≠ s.active → i = .init ∨ i.format = .event) ∧
    (t.finished ≠ s.finished → i.format = .event) ∧
    (t.fifoUser ≠ s.fifoUser → i = .init ∨ ∃ w, i = .setRegister w) ∧
    (t.rxA ≠ s.rxA → i = .init ∨ i.format = .event) ∧
    (t.rxB ≠ s.rxB → i = .init ∨ i.format = .event) ∧
    (t.tx ≠ s.tx → ∃ size ptype payload, i = .transmit size ptype payload) ∧
    t.calls = s.calls ∧ t.turns = s.turns

/-- The output history is only appended to, and no instruction reads it (10_state.md R22). -/
def Obligations.OutputHistoryAppendOnly : Prop :=
  ∀ (i : Instr) (s t : State), exec i s = .next t →
    ∃ l : List OutEvent, t.out = s.out ++ l ∧
      ∀ o : List OutEvent, exec i { s with out := o } = .next { t with out := o ++ l }

/-- Outside `INIT` the receive buffer that is not active keeps every byte and its size and type, until the
completion of the other buffer clears its size field; after that `RECEIVE` returns the newly completed buffer
(20_memory.md R56, R55). -/
def Obligations.FinishedBufferPreserved : Prop :=
  ∀ (i : Instr) (s t : State), i ≠ .init → exec i s = .next t →
    t.buf s.active.other = s.buf s.active.other ∨
    ((∃ r, i = .byteReadyRx true r) ∧
      t.buf s.active.other = { s.buf s.active.other with payloadSize := 0x00#8 } ∧
      t.active = s.active.other ∧ t.finished = s.active ∧
      ∃ u, exec .receive t = .next u ∧ u.result = .buffer (some s.active))

/-- The events after arming emit the frame of the staged packet, byte for byte, and one more event wraps up:
`n + 6` bytes, or `2n + 6` for an ECC type (30_encoding.md R61, 42_byte_ready_step.md R124 to R127). The trailing
byte of a 64-byte payload is a free value, and the statement holds for every value of it (log 6). -/
def Obligations.TransmitEventsEmitFrame : Prop :=
  ∀ (s : State) (rs : List Word), s.irqEn = true → s.state = .transmittingPacket → s.pos = 0x00#8 →
    s.tx.payloadSize.toNat ≤ 64 →
    rs.length = 6 + s.tx.payloadSize.toNat * (if isEcc s.tx.ptype then 2 else 1) + 1 →
      runEvents rs s = .next { s with
        live := true
        state := .idle
        pos := 0x00#8
        out := s.out ++
          emission (txFrame s.tx.payloadSize s.tx.ptype (payloadBytes s.tx)
            (if s.tx.payloadSize.toNat < 64 then Memory.read s.tx.payload s.tx.payloadSize.toNat
             else Config.freeByte s.freeReads)) ++
          bracket (Config.seqToRx s.fifoUser)
        freeReads := if s.tx.payloadSize.toNat < 64 then s.freeReads else s.freeReads + 1 }

/-- The events that deliver a packet's size, type and air bytes rebuild the packet in the active buffer and
publish it: exactly for a type that is not ECC, with up to one flipped bit in every symbol for an ECC type
(30_encoding.md R62, 42_byte_ready_step.md R123 to R133, 40_fec_codec.md R81). -/
def Obligations.ReceiveEventsRebuildPacket : Prop :=
  ∀ (s : State) (ptype : Byte) (bytes air : List Byte) (rs : List Word),
    s.irqEn = true → s.state = .idle → 1 ≤ bytes.length → bytes.length ≤ 64 →
    air.length = (airData ptype bytes).length →
    (∀ j, j < air.length →
      if isEcc ptype then dist (air.getD j 0x00#8) ((airData ptype bytes).getD j 0x00#8) ≤ 1
      else air.getD j 0x00#8 = (airData ptype bytes).getD j 0x00#8) →
    rs.map (fun r => r.extractLsb' 0 8) = BitVec.ofNat 8 bytes.length :: ptype :: air →
      ∃ m : Memory,
        runEvents rs s = .next ((({ s with
          live := true
          pos := 0x00#8
          state := .idle
          finished := s.active
          ready := true
          active := s.active.other
          out := s.out ++ (List.replicate (air.length + 1) (bracket [Config.cmdRxRead])).flatten ++
            bracket (Config.cmdRxRead :: Config.seqFifoClear s.fifoUser) } : State).setPacket s.active.toBuf
              { payloadSize := BitVec.ofNat 8 bytes.length, ptype := ptype, payload := m }).setPacket
                s.active.other.toBuf { s.buf s.active.other with payloadSize := 0x00#8 }) ∧
        ∀ i, i < 64 → Memory.read m i = bytes.getD i 0x00#8

/-- The reserved rows are refused (30_encoding.md R68 (a), (b)). -/
def Obligations.ReservedRowsRefused : Prop :=
  ∀ (s : State) (attn : Bool),
    exec .reservedOpF s = .refused .reservedOperation ∧
    exec (.reservedState6 attn) s = .refused .reservedStateCode ∧
    exec (.reservedState7 attn) s = .refused .reservedStateCode

/-- An arm that the driver state does not select is refused. The model's choice (log 17): 30_encoding.md R67
gives such an arm no step. -/
def Obligations.UnselectedArmRefused : Prop :=
  ∀ (s : State) (x : DriverState) (r : Word), s.irqEn = true → x ≠ s.state →
    exec (eventInstr x true r) s = .refused .armNotSelected

/-- In a state that no run reaches, a payload byte past the 64 bytes of the buffer faults and is written nowhere.
The model's choice (log 20): 20_memory.md R37 says only that it is no access to another field. -/
def Obligations.RxArmPastPayloadFaults : Prop :=
  ∀ (s : State) (r : Word), s.irqEn = true → s.state = .receivingPacket → 2 ≤ s.pos.toNat →
    let ecc : Bool := (s.buf s.active).ptype = 2#8 ∨ (s.buf s.active).ptype = 4#8
    let i := if ecc then (s.pos.toNat - 2) / 2 else s.pos.toNat - 2
    64 ≤ i → exec (.byteReadyRx true r) s = .fault (.writeOutsidePayload s.active.toBuf i)
end

