-- ==== Sys2Proof/Laws/Memory.lean ====
section
/-! SUPPORT. Laws/Memory.lean: reading after writing, and the canonical form. Every memory operation keeps
the form; the read lemmas need no form. -/
namespace Sys2Proof.Machine

/-! ### Reading after writing -/

theorem Memory.read_dropIndex_self (m : Memory) (i : Nat) :
    Memory.read (Memory.dropIndex m i) i = Memory.unlisted := by
  induction m with
  | nil => rfl
  | cons c m ih =>
    simp only [Memory.dropIndex, List.filter_cons] at ih ⊢
    split
    · rename_i h
      have h : c.1 ≠ i := by simpa using h
      simp [Memory.read, h.symm, ih]
    · exact ih

theorem Memory.read_dropIndex_ne (m : Memory) {i j : Nat} (h : j ≠ i) :
    Memory.read (Memory.dropIndex m i) j = Memory.read m j := by
  induction m with
  | nil => rfl
  | cons c m ih =>
    simp only [Memory.dropIndex, List.filter_cons] at ih ⊢
    split
    · simp [Memory.read, ih]
    · rename_i hc
      have hc : c.1 = i := by simpa using hc
      simp [Memory.read, ih, hc, h]

theorem Memory.read_insertCell_ne (m : Memory) {i j : Nat} (v : Byte) (h : j ≠ i) :
    Memory.read (Memory.insertCell m i v) j = Memory.read m j := by
  induction m with
  | nil => simp [Memory.insertCell, Memory.read, h]
  | cons c m ih =>
    simp only [Memory.insertCell]
    split
    · simp [Memory.read, h]
    · simp [Memory.read, ih]

theorem Memory.read_insertCell_self (m : Memory) (i : Nat) (v : Byte) (h : ∀ c ∈ m, c.1 ≠ i) :
    Memory.read (Memory.insertCell m i v) i = v := by
  induction m with
  | nil => simp [Memory.insertCell, Memory.read]
  | cons c m ih =>
    have hc : i ≠ c.1 := (h c (by simp)).symm
    simp only [Memory.insertCell]
    split
    · simp [Memory.read]
    · simp [Memory.read, hc, ih fun d hd => h d (by simp [hd])]

theorem Memory.mem_dropIndex {m : Memory} {i : Nat} {c : Host.Cell} :
    c ∈ Memory.dropIndex m i ↔ c ∈ m ∧ c.1 ≠ i := by
  simp [Memory.dropIndex]

/-- Reading the index just written gives the byte written. -/
theorem Memory.read_write_self (m : Memory) (i : Nat) (v : Byte) : Memory.read (Memory.write m i v) i = v := by
  unfold Memory.write
  split
  · rename_i h; rw [Memory.read_dropIndex_self, h]
  · exact Memory.read_insertCell_self _ _ _ fun c hc => (Memory.mem_dropIndex.mp hc).2

/-- A write leaves every other index alone. -/
theorem Memory.read_write_ne (m : Memory) {i j : Nat} (v : Byte) (h : j ≠ i) :
    Memory.read (Memory.write m i v) j = Memory.read m j := by
  unfold Memory.write
  split
  · exact Memory.read_dropIndex_ne m h
  · rw [Memory.read_insertCell_ne _ _ h, Memory.read_dropIndex_ne m h]

theorem Memory.read_write (m : Memory) (i j : Nat) (v : Byte) :
    Memory.read (Memory.write m i v) j = if j = i then v else Memory.read m j := by
  split
  · rename_i h; rw [h, Memory.read_write_self]
  · rename_i h; rw [Memory.read_write_ne m v h]

theorem Memory.read_writeAll (f : Nat → Byte) (n : Nat) (m : Memory) (j : Nat) :
    Memory.read ((List.range n).foldl (fun acc i => Memory.write acc i (f i)) m) j =
      if j < n then f j else Memory.read m j := by
  induction n with
  | zero => simp
  | succ n ih =>
    rw [List.range_succ, List.foldl_append]
    simp only [List.foldl_cons, List.foldl_nil, Memory.read_write, ih]
    by_cases h : j = n
    · subst h; simp
    · by_cases h' : j < n
      · have : j < n + 1 := by omega
        simp [h, h', this]
      · have : ¬ j < n + 1 := by omega
        simp [h, h', this]

/-- What a payload reads as after every index has been written. -/
theorem Memory.read_fill (m : Memory) (f : Nat → Byte) (j : Nat) :
    Memory.read (Memory.fill m f) j = if j < 64 then f j else Memory.read m j :=
  Memory.read_writeAll f 64 m j

/-! ### The canonical form -/

theorem Memory.wf_nil : Memory.wf [] := by
  refine ⟨List.Pairwise.nil, ?_⟩
  intro c hc
  cases hc

theorem Memory.wf_dropIndex {m : Memory} (h : Memory.wf m) (i : Nat) : Memory.wf (Memory.dropIndex m i) :=
  ⟨h.1.filter _, fun c hc => h.2 c (Memory.mem_dropIndex.mp hc).1⟩

theorem Memory.mem_insertCell {m : Memory} {i : Nat} {v : Byte} {c : Host.Cell}
    (h : c ∈ Memory.insertCell m i v) : c = (i, v) ∨ c ∈ m := by
  induction m with
  | nil => simpa [Memory.insertCell] using h
  | cons d m ih =>
    simp only [Memory.insertCell] at h
    split at h
    · rcases List.mem_cons.mp h with h | h
      · exact .inl h
      · exact .inr h
    · rcases List.mem_cons.mp h with h | h
      · exact .inr (by simp [h])
      · rcases ih h with h | h
        · exact .inl h
        · exact .inr (by simp [h])

theorem Memory.rising_insertCell {m : Memory} {i : Nat} {v : Byte}
    (h : List.Pairwise (fun a b : Host.Cell => a.1 < b.1) m) (hi : ∀ c ∈ m, c.1 ≠ i) :
    List.Pairwise (fun a b : Host.Cell => a.1 < b.1) (Memory.insertCell m i v) := by
  induction m with
  | nil => exact List.pairwise_singleton _ _
  | cons d m ih =>
    obtain ⟨hd, hm⟩ := List.pairwise_cons.mp h
    have hdi : d.1 ≠ i := hi d (by simp)
    simp only [Memory.insertCell]
    split
    · rename_i hlt
      refine List.pairwise_cons.mpr ⟨?_, h⟩
      intro c hc
      rcases List.mem_cons.mp hc with rfl | hc
      · exact hlt
      · exact Nat.lt_trans hlt (hd c hc)
    · rename_i hge
      refine List.pairwise_cons.mpr ⟨?_, ih hm fun c hc => hi c (by simp [hc])⟩
      intro c hc
      rcases Memory.mem_insertCell hc with rfl | hc
      · show d.1 < i
        omega
      · exact hd c hc

/-- A write inside the payload keeps the canonical form. -/
theorem Memory.wf_write {m : Memory} (h : Memory.wf m) {i : Nat} (hi : i < 64) (v : Byte) :
    Memory.wf (Memory.write m i v) := by
  unfold Memory.write
  split
  · exact Memory.wf_dropIndex h i
  · rename_i hv
    refine ⟨Memory.rising_insertCell (Memory.wf_dropIndex h i).1 fun c hc => (Memory.mem_dropIndex.mp hc).2, ?_⟩
    intro c hc
    rcases Memory.mem_insertCell hc with rfl | hc
    · exact ⟨hi, hv⟩
    · exact (Memory.wf_dropIndex h i).2 c hc

theorem Memory.wf_writeAll (f : Nat → Byte) {m : Memory} (h : Memory.wf m) :
    ∀ n, n ≤ 64 → Memory.wf ((List.range n).foldl (fun acc i => Memory.write acc i (f i)) m)
  | 0, _ => h
  | n + 1, hn => by
    rw [List.range_succ, List.foldl_append]
    exact Memory.wf_write (Memory.wf_writeAll f h n (by omega)) (by omega) _

/-- Writing the whole payload keeps the canonical form. -/
theorem Memory.wf_fill {m : Memory} (h : Memory.wf m) (f : Nat → Byte) : Memory.wf (Memory.fill m f) :=
  Memory.wf_writeAll f h 64 (Nat.le_refl _)

/-- The payloads of the power-on state are in canonical form. -/
theorem Memory.wf_reset : ∀ b : Buf, Memory.wf (State.reset.packet b).payload
  | .A => Memory.wf_nil
  | .B => Memory.wf_nil
  | .T => Memory.wf_nil

end Sys2Proof.Machine
end

