-- ==== Sys2Proof/Laws/Operands.lean ====
section
/-! SUPPORT. Laws/Operands.lean: what the tests and totals over operands say, in numbers. -/
namespace Sys2Proof.Machine

/-- A size byte that is accepted is 1 to 64 (R63). -/
theorem sizeOk_iff (n : Byte) : sizeOk n = true ↔ 0 < n.toNat ∧ n.toNat ≤ 64 := by
  unfold sizeOk capacity
  rw [Bool.and_eq_true, decide_eq_true_iff, decide_eq_true_iff]

/-- The ECC types are 2 and 4 (R60). -/
theorem isEcc_iff (t : Byte) : isEcc t = true ↔ t = 2#8 ∨ t = 4#8 := by
  simp [isEcc, typeRawEcc, typeFramedEcc]

/-- The multiplier is 1 or 2 (R60). -/
theorem multiplier_cases (t : Byte) : multiplier t = 1 ∨ multiplier t = 2 := by
  unfold multiplier; split <;> simp

/-- The preconditions of `TRANSMIT` in numbers (R92). -/
theorem packetOk_iff (size ptype : Byte) :
    packetOk size ptype = true ↔ size.toNat ≤ 64 ∧ 1 ≤ ptype.toNat ∧ ptype.toNat ≤ 4 := by
  unfold packetOk capacity
  rw [Bool.and_eq_true, decide_eq_true_iff]
  refine and_congr_right fun _ => ?_
  simp only [typeRaw, typeRawEcc, typeFramed, typeFramedEcc, Bool.or_eq_true, beq_iff_eq, BitVec.toNat_eq,
    BitVec.toNat_ofNat]
  omega

/-- A legal frequency is 97 to 3903 (R73). -/
theorem freqOk_iff (f : BitVec 12) : freqOk f = true ↔ 97 ≤ f.toNat ∧ f.toNat ≤ 3903 := by
  unfold freqOk freqMin freqMax
  rw [Bool.and_eq_true, decide_eq_true_iff, decide_eq_true_iff]

/-- The frequency operand is the value modulo 4096 (R73). -/
theorem freqField_toNat (v : Word) : (freqField v).toNat = v.toNat % 4096 := by
  have h : v.toNat &&& 4095 = v.toNat % 4096 := Nat.and_two_pow_sub_one_eq_mod v.toNat 12
  simp [freqField, freqMask, h]

/-- The total of a transmitted frame (R10). -/
theorem txTotal_eq (p : Packet) : txTotal p = 6 + p.payloadSize.toNat * multiplier p.ptype := rfl

/-- The total of a received frame (R10). -/
theorem rxTotal_eq (p : Packet) : rxTotal p = 2 + p.payloadSize.toNat * multiplier p.ptype := rfl

/-- The largest transmitted frame has 134 bytes (R10). -/
theorem txTotal_le {p : Packet} (h : p.payloadSize.toNat ≤ 64) : txTotal p ≤ 134 := by
  rw [txTotal_eq]
  rcases multiplier_cases p.ptype with hm | hm <;> rw [hm] <;> omega

/-- The largest received frame has 130 bytes (R10). -/
theorem rxTotal_le {p : Packet} (h : p.payloadSize.toNat ≤ 64) : rxTotal p ≤ 130 := by
  rw [rxTotal_eq]
  rcases multiplier_cases p.ptype with hm | hm <;> rw [hm] <;> omega

/-- The received byte is the low byte of the chip's answer (R44, R7). -/
theorem receivedByte_eq (r : Word) : receivedByte r = r.extractLsb' 0 8 := rfl

/-- On the link the low byte of a transfer is first (R42). -/
@[simp] theorem linkBytes_eq (w : Word) : linkBytes w = [w.extractLsb' 0 8, w.extractLsb' 8 8] := rfl

/-- The two directions of the link agree: the bytes of a word, received in the order sent, are that word (R42). -/
@[simp] theorem wordOfLink_linkBytes (w : Word) : wordOfLink (w.extractLsb' 0 8) (w.extractLsb' 8 8) = w := by
  refine BitVec.eq_of_getLsbD_eq fun k hk => ?_
  rw [wordOfLink, BitVec.getLsbD_append]
  by_cases h : k < 8
  · simp [h]
  · have h8 : k - 8 < 8 := by omega
    have hk8 : 8 + (k - 8) = k := by omega
    simp [h, h8, hk8]

/-- The byte of a FIFO read is the first of the two bytes the link returns (R42, R44; log 13). -/
@[simp] theorem receivedByte_wordOfLink (first second : Byte) : receivedByte (wordOfLink first second) = first := by
  refine BitVec.eq_of_getLsbD_eq fun k hk => ?_
  rw [receivedByte_eq, wordOfLink, BitVec.getLsbD_extractLsb', BitVec.getLsbD_append]
  simp [hk]

@[simp] theorem OutEvent.link_bus (w : Word) : (OutEvent.bus w).link = linkBytes w := rfl
@[simp] theorem OutEvent.link_csAssert : OutEvent.csAssert.link = [] := rfl
@[simp] theorem OutEvent.link_csDeassert : OutEvent.csDeassert.link = [] := rfl

/-- The bus keeps user bits inside the mask (R72). -/
theorem fifoUser_masked (w : Word) : (w &&& Config.fifoUserMask) &&& ~~~Config.fifoUserMask = 0x0000#16 := by
  ext k hk
  cases h : Config.fifoUserMask[k] <;> simp [h]

/-- The default sub-field lies inside the mask (R172). -/
theorem fifoUserDefault_masked : Config.fifoUserDefault &&& ~~~Config.fifoUserMask = 0x0000#16 :=
  fifoUser_masked _

end Sys2Proof.Machine
end

