-- ==== Sys2Proof/Laws/State.lean ====
section
/-! SUPPORT. Laws/State.lean: one lemma per field per update of the state, so that no later proof unfolds a
record update. -/
namespace Sys2Proof.Machine

section Updates
variable (s : State)

/-! ### `setLive` -/

@[simp] theorem State.setLive_state (b : Bool) : (s.setLive b).state = s.state := rfl
@[simp] theorem State.setLive_pos (b : Bool) : (s.setLive b).pos = s.pos := rfl
@[simp] theorem State.setLive_live (b : Bool) : (s.setLive b).live = b := rfl
@[simp] theorem State.setLive_ready (b : Bool) : (s.setLive b).ready = s.ready := rfl
@[simp] theorem State.setLive_irqEn (b : Bool) : (s.setLive b).irqEn = s.irqEn := rfl
@[simp] theorem State.setLive_active (b : Bool) : (s.setLive b).active = s.active := rfl
@[simp] theorem State.setLive_finished (b : Bool) : (s.setLive b).finished = s.finished := rfl
@[simp] theorem State.setLive_fifoUser (b : Bool) : (s.setLive b).fifoUser = s.fifoUser := rfl
@[simp] theorem State.setLive_out (b : Bool) : (s.setLive b).out = s.out := rfl
@[simp] theorem State.setLive_rxA (b : Bool) : (s.setLive b).rxA = s.rxA := rfl
@[simp] theorem State.setLive_rxB (b : Bool) : (s.setLive b).rxB = s.rxB := rfl
@[simp] theorem State.setLive_tx (b : Bool) : (s.setLive b).tx = s.tx := rfl
@[simp] theorem State.setLive_result (b : Bool) : (s.setLive b).result = s.result := rfl
@[simp] theorem State.setLive_txStep (b : Bool) : (s.setLive b).txStep = s.txStep := rfl
@[simp] theorem State.setLive_calls (b : Bool) : (s.setLive b).calls = s.calls := rfl
@[simp] theorem State.setLive_turns (b : Bool) : (s.setLive b).turns = s.turns := rfl
@[simp] theorem State.setLive_freeReads (b : Bool) : (s.setLive b).freeReads = s.freeReads := rfl
@[simp] theorem State.setLive_packet (b : Bool) (k : Buf) : (s.setLive b).packet k = s.packet k := by
  cases k <;> rfl
@[simp] theorem State.setLive_buf (b : Bool) (k : RxBuf) : (s.setLive b).buf k = s.buf k := by
  cases k <;> rfl

/-! ### `setReady` -/

@[simp] theorem State.setReady_state (b : Bool) : (s.setReady b).state = s.state := rfl
@[simp] theorem State.setReady_pos (b : Bool) : (s.setReady b).pos = s.pos := rfl
@[simp] theorem State.setReady_live (b : Bool) : (s.setReady b).live = s.live := rfl
@[simp] theorem State.setReady_ready (b : Bool) : (s.setReady b).ready = b := rfl
@[simp] theorem State.setReady_irqEn (b : Bool) : (s.setReady b).irqEn = s.irqEn := rfl
@[simp] theorem State.setReady_active (b : Bool) : (s.setReady b).active = s.active := rfl
@[simp] theorem State.setReady_finished (b : Bool) : (s.setReady b).finished = s.finished := rfl
@[simp] theorem State.setReady_fifoUser (b : Bool) : (s.setReady b).fifoUser = s.fifoUser := rfl
@[simp] theorem State.setReady_out (b : Bool) : (s.setReady b).out = s.out := rfl
@[simp] theorem State.setReady_rxA (b : Bool) : (s.setReady b).rxA = s.rxA := rfl
@[simp] theorem State.setReady_rxB (b : Bool) : (s.setReady b).rxB = s.rxB := rfl
@[simp] theorem State.setReady_tx (b : Bool) : (s.setReady b).tx = s.tx := rfl
@[simp] theorem State.setReady_result (b : Bool) : (s.setReady b).result = s.result := rfl
@[simp] theorem State.setReady_txStep (b : Bool) : (s.setReady b).txStep = s.txStep := rfl
@[simp] theorem State.setReady_calls (b : Bool) : (s.setReady b).calls = s.calls := rfl
@[simp] theorem State.setReady_turns (b : Bool) : (s.setReady b).turns = s.turns := rfl
@[simp] theorem State.setReady_freeReads (b : Bool) : (s.setReady b).freeReads = s.freeReads := rfl
@[simp] theorem State.setReady_packet (b : Bool) (k : Buf) : (s.setReady b).packet k = s.packet k := by
  cases k <;> rfl
@[simp] theorem State.setReady_buf (b : Bool) (k : RxBuf) : (s.setReady b).buf k = s.buf k := by
  cases k <;> rfl

/-! ### `setIrqEn` -/

@[simp] theorem State.setIrqEn_state (b : Bool) : (s.setIrqEn b).state = s.state := rfl
@[simp] theorem State.setIrqEn_pos (b : Bool) : (s.setIrqEn b).pos = s.pos := rfl
@[simp] theorem State.setIrqEn_live (b : Bool) : (s.setIrqEn b).live = s.live := rfl
@[simp] theorem State.setIrqEn_ready (b : Bool) : (s.setIrqEn b).ready = s.ready := rfl
@[simp] theorem State.setIrqEn_irqEn (b : Bool) : (s.setIrqEn b).irqEn = b := rfl
@[simp] theorem State.setIrqEn_active (b : Bool) : (s.setIrqEn b).active = s.active := rfl
@[simp] theorem State.setIrqEn_finished (b : Bool) : (s.setIrqEn b).finished = s.finished := rfl
@[simp] theorem State.setIrqEn_fifoUser (b : Bool) : (s.setIrqEn b).fifoUser = s.fifoUser := rfl
@[simp] theorem State.setIrqEn_out (b : Bool) : (s.setIrqEn b).out = s.out := rfl
@[simp] theorem State.setIrqEn_rxA (b : Bool) : (s.setIrqEn b).rxA = s.rxA := rfl
@[simp] theorem State.setIrqEn_rxB (b : Bool) : (s.setIrqEn b).rxB = s.rxB := rfl
@[simp] theorem State.setIrqEn_tx (b : Bool) : (s.setIrqEn b).tx = s.tx := rfl
@[simp] theorem State.setIrqEn_result (b : Bool) : (s.setIrqEn b).result = s.result := rfl
@[simp] theorem State.setIrqEn_txStep (b : Bool) : (s.setIrqEn b).txStep = s.txStep := rfl
@[simp] theorem State.setIrqEn_calls (b : Bool) : (s.setIrqEn b).calls = s.calls := rfl
@[simp] theorem State.setIrqEn_turns (b : Bool) : (s.setIrqEn b).turns = s.turns := rfl
@[simp] theorem State.setIrqEn_freeReads (b : Bool) : (s.setIrqEn b).freeReads = s.freeReads := rfl
@[simp] theorem State.setIrqEn_packet (b : Bool) (k : Buf) : (s.setIrqEn b).packet k = s.packet k := by
  cases k <;> rfl
@[simp] theorem State.setIrqEn_buf (b : Bool) (k : RxBuf) : (s.setIrqEn b).buf k = s.buf k := by
  cases k <;> rfl

/-! ### `drive` -/

@[simp] theorem State.drive_state (l : List OutEvent) : (s.drive l).state = s.state := rfl
@[simp] theorem State.drive_pos (l : List OutEvent) : (s.drive l).pos = s.pos := rfl
@[simp] theorem State.drive_live (l : List OutEvent) : (s.drive l).live = s.live := rfl
@[simp] theorem State.drive_ready (l : List OutEvent) : (s.drive l).ready = s.ready := rfl
@[simp] theorem State.drive_irqEn (l : List OutEvent) : (s.drive l).irqEn = s.irqEn := rfl
@[simp] theorem State.drive_active (l : List OutEvent) : (s.drive l).active = s.active := rfl
@[simp] theorem State.drive_finished (l : List OutEvent) : (s.drive l).finished = s.finished := rfl
@[simp] theorem State.drive_fifoUser (l : List OutEvent) : (s.drive l).fifoUser = s.fifoUser := rfl
@[simp] theorem State.drive_out (l : List OutEvent) : (s.drive l).out = s.out ++ l := rfl
@[simp] theorem State.drive_rxA (l : List OutEvent) : (s.drive l).rxA = s.rxA := rfl
@[simp] theorem State.drive_rxB (l : List OutEvent) : (s.drive l).rxB = s.rxB := rfl
@[simp] theorem State.drive_tx (l : List OutEvent) : (s.drive l).tx = s.tx := rfl
@[simp] theorem State.drive_result (l : List OutEvent) : (s.drive l).result = s.result := rfl
@[simp] theorem State.drive_txStep (l : List OutEvent) : (s.drive l).txStep = s.txStep := rfl
@[simp] theorem State.drive_calls (l : List OutEvent) : (s.drive l).calls = s.calls := rfl
@[simp] theorem State.drive_turns (l : List OutEvent) : (s.drive l).turns = s.turns := rfl
@[simp] theorem State.drive_freeReads (l : List OutEvent) : (s.drive l).freeReads = s.freeReads := rfl
@[simp] theorem State.drive_packet (l : List OutEvent) (k : Buf) : (s.drive l).packet k = s.packet k := by
  cases k <;> rfl
@[simp] theorem State.drive_buf (l : List OutEvent) (k : RxBuf) : (s.drive l).buf k = s.buf k := by
  cases k <;> rfl

/-! ### `xfer` -/

@[simp] theorem State.xfer_state (w : Word) : (s.xfer w).state = s.state := rfl
@[simp] theorem State.xfer_pos (w : Word) : (s.xfer w).pos = s.pos := rfl
@[simp] theorem State.xfer_live (w : Word) : (s.xfer w).live = s.live := rfl
@[simp] theorem State.xfer_ready (w : Word) : (s.xfer w).ready = s.ready := rfl
@[simp] theorem State.xfer_irqEn (w : Word) : (s.xfer w).irqEn = s.irqEn := rfl
@[simp] theorem State.xfer_active (w : Word) : (s.xfer w).active = s.active := rfl
@[simp] theorem State.xfer_finished (w : Word) : (s.xfer w).finished = s.finished := rfl
@[simp] theorem State.xfer_fifoUser (w : Word) : (s.xfer w).fifoUser = s.fifoUser := rfl
@[simp] theorem State.xfer_out (w : Word) : (s.xfer w).out = s.out ++ [.bus w] := rfl
@[simp] theorem State.xfer_rxA (w : Word) : (s.xfer w).rxA = s.rxA := rfl
@[simp] theorem State.xfer_rxB (w : Word) : (s.xfer w).rxB = s.rxB := rfl
@[simp] theorem State.xfer_tx (w : Word) : (s.xfer w).tx = s.tx := rfl
@[simp] theorem State.xfer_result (w : Word) : (s.xfer w).result = s.result := rfl
@[simp] theorem State.xfer_txStep (w : Word) : (s.xfer w).txStep = s.txStep := rfl
@[simp] theorem State.xfer_calls (w : Word) : (s.xfer w).calls = s.calls := rfl
@[simp] theorem State.xfer_turns (w : Word) : (s.xfer w).turns = s.turns := rfl
@[simp] theorem State.xfer_freeReads (w : Word) : (s.xfer w).freeReads = s.freeReads := rfl
@[simp] theorem State.xfer_packet (w : Word) (k : Buf) : (s.xfer w).packet k = s.packet k := by
  cases k <;> rfl
@[simp] theorem State.xfer_buf (w : Word) (k : RxBuf) : (s.xfer w).buf k = s.buf k := by
  cases k <;> rfl

/-! ### `emit` -/

@[simp] theorem State.emit_state (ws : List Word) : (s.emit ws).state = s.state := rfl
@[simp] theorem State.emit_pos (ws : List Word) : (s.emit ws).pos = s.pos := rfl
@[simp] theorem State.emit_live (ws : List Word) : (s.emit ws).live = s.live := rfl
@[simp] theorem State.emit_ready (ws : List Word) : (s.emit ws).ready = s.ready := rfl
@[simp] theorem State.emit_irqEn (ws : List Word) : (s.emit ws).irqEn = s.irqEn := rfl
@[simp] theorem State.emit_active (ws : List Word) : (s.emit ws).active = s.active := rfl
@[simp] theorem State.emit_finished (ws : List Word) : (s.emit ws).finished = s.finished := rfl
@[simp] theorem State.emit_fifoUser (ws : List Word) : (s.emit ws).fifoUser = s.fifoUser := rfl
@[simp] theorem State.emit_out (ws : List Word) : (s.emit ws).out = s.out ++ ws.map .bus := rfl
@[simp] theorem State.emit_rxA (ws : List Word) : (s.emit ws).rxA = s.rxA := rfl
@[simp] theorem State.emit_rxB (ws : List Word) : (s.emit ws).rxB = s.rxB := rfl
@[simp] theorem State.emit_tx (ws : List Word) : (s.emit ws).tx = s.tx := rfl
@[simp] theorem State.emit_result (ws : List Word) : (s.emit ws).result = s.result := rfl
@[simp] theorem State.emit_txStep (ws : List Word) : (s.emit ws).txStep = s.txStep := rfl
@[simp] theorem State.emit_calls (ws : List Word) : (s.emit ws).calls = s.calls := rfl
@[simp] theorem State.emit_turns (ws : List Word) : (s.emit ws).turns = s.turns := rfl
@[simp] theorem State.emit_freeReads (ws : List Word) : (s.emit ws).freeReads = s.freeReads := rfl
@[simp] theorem State.emit_packet (ws : List Word) (k : Buf) : (s.emit ws).packet k = s.packet k := by
  cases k <;> rfl
@[simp] theorem State.emit_buf (ws : List Word) (k : RxBuf) : (s.emit ws).buf k = s.buf k := by
  cases k <;> rfl

/-! ### `txEmit` -/

@[simp] theorem State.txEmit_state (b : Byte) : (s.txEmit b).state = s.state := rfl
@[simp] theorem State.txEmit_pos (b : Byte) : (s.txEmit b).pos = s.pos := rfl
@[simp] theorem State.txEmit_live (b : Byte) : (s.txEmit b).live = s.live := rfl
@[simp] theorem State.txEmit_ready (b : Byte) : (s.txEmit b).ready = s.ready := rfl
@[simp] theorem State.txEmit_irqEn (b : Byte) : (s.txEmit b).irqEn = s.irqEn := rfl
@[simp] theorem State.txEmit_active (b : Byte) : (s.txEmit b).active = s.active := rfl
@[simp] theorem State.txEmit_finished (b : Byte) : (s.txEmit b).finished = s.finished := rfl
@[simp] theorem State.txEmit_fifoUser (b : Byte) : (s.txEmit b).fifoUser = s.fifoUser := rfl
@[simp] theorem State.txEmit_out (b : Byte) : (s.txEmit b).out = s.out ++ [.bus (txWriteWord b)] := rfl
@[simp] theorem State.txEmit_rxA (b : Byte) : (s.txEmit b).rxA = s.rxA := rfl
@[simp] theorem State.txEmit_rxB (b : Byte) : (s.txEmit b).rxB = s.rxB := rfl
@[simp] theorem State.txEmit_tx (b : Byte) : (s.txEmit b).tx = s.tx := rfl
@[simp] theorem State.txEmit_result (b : Byte) : (s.txEmit b).result = s.result := rfl
@[simp] theorem State.txEmit_txStep (b : Byte) : (s.txEmit b).txStep = s.txStep := rfl
@[simp] theorem State.txEmit_calls (b : Byte) : (s.txEmit b).calls = s.calls := rfl
@[simp] theorem State.txEmit_turns (b : Byte) : (s.txEmit b).turns = s.turns := rfl
@[simp] theorem State.txEmit_freeReads (b : Byte) : (s.txEmit b).freeReads = s.freeReads := rfl
@[simp] theorem State.txEmit_packet (b : Byte) (k : Buf) : (s.txEmit b).packet k = s.packet k := by
  cases k <;> rfl
@[simp] theorem State.txEmit_buf (b : Byte) (k : RxBuf) : (s.txEmit b).buf k = s.buf k := by
  cases k <;> rfl

/-! ### `fifoRead` -/

@[simp] theorem State.fifoRead_state : s.fifoRead.state = s.state := rfl
@[simp] theorem State.fifoRead_pos : s.fifoRead.pos = s.pos := rfl
@[simp] theorem State.fifoRead_live : s.fifoRead.live = s.live := rfl
@[simp] theorem State.fifoRead_ready : s.fifoRead.ready = s.ready := rfl
@[simp] theorem State.fifoRead_irqEn : s.fifoRead.irqEn = s.irqEn := rfl
@[simp] theorem State.fifoRead_active : s.fifoRead.active = s.active := rfl
@[simp] theorem State.fifoRead_finished : s.fifoRead.finished = s.finished := rfl
@[simp] theorem State.fifoRead_fifoUser : s.fifoRead.fifoUser = s.fifoUser := rfl
@[simp] theorem State.fifoRead_out : s.fifoRead.out = s.out ++ [.bus Config.cmdRxRead] := rfl
@[simp] theorem State.fifoRead_rxA : s.fifoRead.rxA = s.rxA := rfl
@[simp] theorem State.fifoRead_rxB : s.fifoRead.rxB = s.rxB := rfl
@[simp] theorem State.fifoRead_tx : s.fifoRead.tx = s.tx := rfl
@[simp] theorem State.fifoRead_result : s.fifoRead.result = s.result := rfl
@[simp] theorem State.fifoRead_txStep : s.fifoRead.txStep = s.txStep := rfl
@[simp] theorem State.fifoRead_calls : s.fifoRead.calls = s.calls := rfl
@[simp] theorem State.fifoRead_turns : s.fifoRead.turns = s.turns := rfl
@[simp] theorem State.fifoRead_freeReads : s.fifoRead.freeReads = s.freeReads := rfl
@[simp] theorem State.fifoRead_packet (k : Buf) : s.fifoRead.packet k = s.packet k := by
  cases k <;> rfl
@[simp] theorem State.fifoRead_buf (k : RxBuf) : s.fifoRead.buf k = s.buf k := by
  cases k <;> rfl

/-! ### `setState` -/

@[simp] theorem State.setState_state (x : DriverState) : (s.setState x).state = x := rfl
@[simp] theorem State.setState_pos (x : DriverState) : (s.setState x).pos = s.pos := rfl
@[simp] theorem State.setState_live (x : DriverState) : (s.setState x).live = s.live := rfl
@[simp] theorem State.setState_ready (x : DriverState) : (s.setState x).ready = s.ready := rfl
@[simp] theorem State.setState_irqEn (x : DriverState) : (s.setState x).irqEn = s.irqEn := rfl
@[simp] theorem State.setState_active (x : DriverState) : (s.setState x).active = s.active := rfl
@[simp] theorem State.setState_finished (x : DriverState) : (s.setState x).finished = s.finished := rfl
@[simp] theorem State.setState_fifoUser (x : DriverState) : (s.setState x).fifoUser = s.fifoUser := rfl
@[simp] theorem State.setState_out (x : DriverState) : (s.setState x).out = s.out := rfl
@[simp] theorem State.setState_rxA (x : DriverState) : (s.setState x).rxA = s.rxA := rfl
@[simp] theorem State.setState_rxB (x : DriverState) : (s.setState x).rxB = s.rxB := rfl
@[simp] theorem State.setState_tx (x : DriverState) : (s.setState x).tx = s.tx := rfl
@[simp] theorem State.setState_result (x : DriverState) : (s.setState x).result = s.result := rfl
@[simp] theorem State.setState_txStep (x : DriverState) : (s.setState x).txStep = s.txStep := rfl
@[simp] theorem State.setState_calls (x : DriverState) : (s.setState x).calls = s.calls := rfl
@[simp] theorem State.setState_turns (x : DriverState) : (s.setState x).turns = s.turns := rfl
@[simp] theorem State.setState_freeReads (x : DriverState) : (s.setState x).freeReads = s.freeReads := rfl
@[simp] theorem State.setState_packet (x : DriverState) (k : Buf) : (s.setState x).packet k = s.packet k := by
  cases k <;> rfl
@[simp] theorem State.setState_buf (x : DriverState) (k : RxBuf) : (s.setState x).buf k = s.buf k := by
  cases k <;> rfl

/-! ### `setPos` -/

@[simp] theorem State.setPos_state (n : Byte) : (s.setPos n).state = s.state := rfl
@[simp] theorem State.setPos_pos (n : Byte) : (s.setPos n).pos = n := rfl
@[simp] theorem State.setPos_live (n : Byte) : (s.setPos n).live = s.live := rfl
@[simp] theorem State.setPos_ready (n : Byte) : (s.setPos n).ready = s.ready := rfl
@[simp] theorem State.setPos_irqEn (n : Byte) : (s.setPos n).irqEn = s.irqEn := rfl
@[simp] theorem State.setPos_active (n : Byte) : (s.setPos n).active = s.active := rfl
@[simp] theorem State.setPos_finished (n : Byte) : (s.setPos n).finished = s.finished := rfl
@[simp] theorem State.setPos_fifoUser (n : Byte) : (s.setPos n).fifoUser = s.fifoUser := rfl
@[simp] theorem State.setPos_out (n : Byte) : (s.setPos n).out = s.out := rfl
@[simp] theorem State.setPos_rxA (n : Byte) : (s.setPos n).rxA = s.rxA := rfl
@[simp] theorem State.setPos_rxB (n : Byte) : (s.setPos n).rxB = s.rxB := rfl
@[simp] theorem State.setPos_tx (n : Byte) : (s.setPos n).tx = s.tx := rfl
@[simp] theorem State.setPos_result (n : Byte) : (s.setPos n).result = s.result := rfl
@[simp] theorem State.setPos_txStep (n : Byte) : (s.setPos n).txStep = s.txStep := rfl
@[simp] theorem State.setPos_calls (n : Byte) : (s.setPos n).calls = s.calls := rfl
@[simp] theorem State.setPos_turns (n : Byte) : (s.setPos n).turns = s.turns := rfl
@[simp] theorem State.setPos_freeReads (n : Byte) : (s.setPos n).freeReads = s.freeReads := rfl
@[simp] theorem State.setPos_packet (n : Byte) (k : Buf) : (s.setPos n).packet k = s.packet k := by
  cases k <;> rfl
@[simp] theorem State.setPos_buf (n : Byte) (k : RxBuf) : (s.setPos n).buf k = s.buf k := by
  cases k <;> rfl

/-! ### `setActive` -/

@[simp] theorem State.setActive_state (b : RxBuf) : (s.setActive b).state = s.state := rfl
@[simp] theorem State.setActive_pos (b : RxBuf) : (s.setActive b).pos = s.pos := rfl
@[simp] theorem State.setActive_live (b : RxBuf) : (s.setActive b).live = s.live := rfl
@[simp] theorem State.setActive_ready (b : RxBuf) : (s.setActive b).ready = s.ready := rfl
@[simp] theorem State.setActive_irqEn (b : RxBuf) : (s.setActive b).irqEn = s.irqEn := rfl
@[simp] theorem State.setActive_active (b : RxBuf) : (s.setActive b).active = b := rfl
@[simp] theorem State.setActive_finished (b : RxBuf) : (s.setActive b).finished = s.finished := rfl
@[simp] theorem State.setActive_fifoUser (b : RxBuf) : (s.setActive b).fifoUser = s.fifoUser := rfl
@[simp] theorem State.setActive_out (b : RxBuf) : (s.setActive b).out = s.out := rfl
@[simp] theorem State.setActive_rxA (b : RxBuf) : (s.setActive b).rxA = s.rxA := rfl
@[simp] theorem State.setActive_rxB (b : RxBuf) : (s.setActive b).rxB = s.rxB := rfl
@[simp] theorem State.setActive_tx (b : RxBuf) : (s.setActive b).tx = s.tx := rfl
@[simp] theorem State.setActive_result (b : RxBuf) : (s.setActive b).result = s.result := rfl
@[simp] theorem State.setActive_txStep (b : RxBuf) : (s.setActive b).txStep = s.txStep := rfl
@[simp] theorem State.setActive_calls (b : RxBuf) : (s.setActive b).calls = s.calls := rfl
@[simp] theorem State.setActive_turns (b : RxBuf) : (s.setActive b).turns = s.turns := rfl
@[simp] theorem State.setActive_freeReads (b : RxBuf) : (s.setActive b).freeReads = s.freeReads := rfl
@[simp] theorem State.setActive_packet (b : RxBuf) (k : Buf) : (s.setActive b).packet k = s.packet k := by
  cases k <;> rfl
@[simp] theorem State.setActive_buf (b : RxBuf) (k : RxBuf) : (s.setActive b).buf k = s.buf k := by
  cases k <;> rfl

/-! ### `setFinished` -/

@[simp] theorem State.setFinished_state (b : RxBuf) : (s.setFinished b).state = s.state := rfl
@[simp] theorem State.setFinished_pos (b : RxBuf) : (s.setFinished b).pos = s.pos := rfl
@[simp] theorem State.setFinished_live (b : RxBuf) : (s.setFinished b).live = s.live := rfl
@[simp] theorem State.setFinished_ready (b : RxBuf) : (s.setFinished b).ready = s.ready := rfl
@[simp] theorem State.setFinished_irqEn (b : RxBuf) : (s.setFinished b).irqEn = s.irqEn := rfl
@[simp] theorem State.setFinished_active (b : RxBuf) : (s.setFinished b).active = s.active := rfl
@[simp] theorem State.setFinished_finished (b : RxBuf) : (s.setFinished b).finished = b := rfl
@[simp] theorem State.setFinished_fifoUser (b : RxBuf) : (s.setFinished b).fifoUser = s.fifoUser := rfl
@[simp] theorem State.setFinished_out (b : RxBuf) : (s.setFinished b).out = s.out := rfl
@[simp] theorem State.setFinished_rxA (b : RxBuf) : (s.setFinished b).rxA = s.rxA := rfl
@[simp] theorem State.setFinished_rxB (b : RxBuf) : (s.setFinished b).rxB = s.rxB := rfl
@[simp] theorem State.setFinished_tx (b : RxBuf) : (s.setFinished b).tx = s.tx := rfl
@[simp] theorem State.setFinished_result (b : RxBuf) : (s.setFinished b).result = s.result := rfl
@[simp] theorem State.setFinished_txStep (b : RxBuf) : (s.setFinished b).txStep = s.txStep := rfl
@[simp] theorem State.setFinished_calls (b : RxBuf) : (s.setFinished b).calls = s.calls := rfl
@[simp] theorem State.setFinished_turns (b : RxBuf) : (s.setFinished b).turns = s.turns := rfl
@[simp] theorem State.setFinished_freeReads (b : RxBuf) : (s.setFinished b).freeReads = s.freeReads := rfl
@[simp] theorem State.setFinished_packet (b : RxBuf) (k : Buf) : (s.setFinished b).packet k = s.packet k := by
  cases k <;> rfl
@[simp] theorem State.setFinished_buf (b : RxBuf) (k : RxBuf) : (s.setFinished b).buf k = s.buf k := by
  cases k <;> rfl

/-! ### `setFifoUser` -/

@[simp] theorem State.setFifoUser_state (u : Word) : (s.setFifoUser u).state = s.state := rfl
@[simp] theorem State.setFifoUser_pos (u : Word) : (s.setFifoUser u).pos = s.pos := rfl
@[simp] theorem State.setFifoUser_live (u : Word) : (s.setFifoUser u).live = s.live := rfl
@[simp] theorem State.setFifoUser_ready (u : Word) : (s.setFifoUser u).ready = s.ready := rfl
@[simp] theorem State.setFifoUser_irqEn (u : Word) : (s.setFifoUser u).irqEn = s.irqEn := rfl
@[simp] theorem State.setFifoUser_active (u : Word) : (s.setFifoUser u).active = s.active := rfl
@[simp] theorem State.setFifoUser_finished (u : Word) : (s.setFifoUser u).finished = s.finished := rfl
@[simp] theorem State.setFifoUser_fifoUser (u : Word) : (s.setFifoUser u).fifoUser = u := rfl
@[simp] theorem State.setFifoUser_out (u : Word) : (s.setFifoUser u).out = s.out := rfl
@[simp] theorem State.setFifoUser_rxA (u : Word) : (s.setFifoUser u).rxA = s.rxA := rfl
@[simp] theorem State.setFifoUser_rxB (u : Word) : (s.setFifoUser u).rxB = s.rxB := rfl
@[simp] theorem State.setFifoUser_tx (u : Word) : (s.setFifoUser u).tx = s.tx := rfl
@[simp] theorem State.setFifoUser_result (u : Word) : (s.setFifoUser u).result = s.result := rfl
@[simp] theorem State.setFifoUser_txStep (u : Word) : (s.setFifoUser u).txStep = s.txStep := rfl
@[simp] theorem State.setFifoUser_calls (u : Word) : (s.setFifoUser u).calls = s.calls := rfl
@[simp] theorem State.setFifoUser_turns (u : Word) : (s.setFifoUser u).turns = s.turns := rfl
@[simp] theorem State.setFifoUser_freeReads (u : Word) : (s.setFifoUser u).freeReads = s.freeReads := rfl
@[simp] theorem State.setFifoUser_packet (u : Word) (k : Buf) : (s.setFifoUser u).packet k = s.packet k := by
  cases k <;> rfl
@[simp] theorem State.setFifoUser_buf (u : Word) (k : RxBuf) : (s.setFifoUser u).buf k = s.buf k := by
  cases k <;> rfl

/-! ### `setResult` -/

@[simp] theorem State.setResult_state (r : Result) : (s.setResult r).state = s.state := rfl
@[simp] theorem State.setResult_pos (r : Result) : (s.setResult r).pos = s.pos := rfl
@[simp] theorem State.setResult_live (r : Result) : (s.setResult r).live = s.live := rfl
@[simp] theorem State.setResult_ready (r : Result) : (s.setResult r).ready = s.ready := rfl
@[simp] theorem State.setResult_irqEn (r : Result) : (s.setResult r).irqEn = s.irqEn := rfl
@[simp] theorem State.setResult_active (r : Result) : (s.setResult r).active = s.active := rfl
@[simp] theorem State.setResult_finished (r : Result) : (s.setResult r).finished = s.finished := rfl
@[simp] theorem State.setResult_fifoUser (r : Result) : (s.setResult r).fifoUser = s.fifoUser := rfl
@[simp] theorem State.setResult_out (r : Result) : (s.setResult r).out = s.out := rfl
@[simp] theorem State.setResult_rxA (r : Result) : (s.setResult r).rxA = s.rxA := rfl
@[simp] theorem State.setResult_rxB (r : Result) : (s.setResult r).rxB = s.rxB := rfl
@[simp] theorem State.setResult_tx (r : Result) : (s.setResult r).tx = s.tx := rfl
@[simp] theorem State.setResult_result (r : Result) : (s.setResult r).result = r := rfl
@[simp] theorem State.setResult_txStep (r : Result) : (s.setResult r).txStep = s.txStep := rfl
@[simp] theorem State.setResult_calls (r : Result) : (s.setResult r).calls = s.calls := rfl
@[simp] theorem State.setResult_turns (r : Result) : (s.setResult r).turns = s.turns := rfl
@[simp] theorem State.setResult_freeReads (r : Result) : (s.setResult r).freeReads = s.freeReads := rfl
@[simp] theorem State.setResult_packet (r : Result) (k : Buf) : (s.setResult r).packet k = s.packet k := by
  cases k <;> rfl
@[simp] theorem State.setResult_buf (r : Result) (k : RxBuf) : (s.setResult r).buf k = s.buf k := by
  cases k <;> rfl

/-! ### `setTxStep` -/

@[simp] theorem State.setTxStep_state (t : TxStep) : (s.setTxStep t).state = s.state := rfl
@[simp] theorem State.setTxStep_pos (t : TxStep) : (s.setTxStep t).pos = s.pos := rfl
@[simp] theorem State.setTxStep_live (t : TxStep) : (s.setTxStep t).live = s.live := rfl
@[simp] theorem State.setTxStep_ready (t : TxStep) : (s.setTxStep t).ready = s.ready := rfl
@[simp] theorem State.setTxStep_irqEn (t : TxStep) : (s.setTxStep t).irqEn = s.irqEn := rfl
@[simp] theorem State.setTxStep_active (t : TxStep) : (s.setTxStep t).active = s.active := rfl
@[simp] theorem State.setTxStep_finished (t : TxStep) : (s.setTxStep t).finished = s.finished := rfl
@[simp] theorem State.setTxStep_fifoUser (t : TxStep) : (s.setTxStep t).fifoUser = s.fifoUser := rfl
@[simp] theorem State.setTxStep_out (t : TxStep) : (s.setTxStep t).out = s.out := rfl
@[simp] theorem State.setTxStep_rxA (t : TxStep) : (s.setTxStep t).rxA = s.rxA := rfl
@[simp] theorem State.setTxStep_rxB (t : TxStep) : (s.setTxStep t).rxB = s.rxB := rfl
@[simp] theorem State.setTxStep_tx (t : TxStep) : (s.setTxStep t).tx = s.tx := rfl
@[simp] theorem State.setTxStep_result (t : TxStep) : (s.setTxStep t).result = s.result := rfl
@[simp] theorem State.setTxStep_txStep (t : TxStep) : (s.setTxStep t).txStep = t := rfl
@[simp] theorem State.setTxStep_calls (t : TxStep) : (s.setTxStep t).calls = s.calls := rfl
@[simp] theorem State.setTxStep_turns (t : TxStep) : (s.setTxStep t).turns = s.turns := rfl
@[simp] theorem State.setTxStep_freeReads (t : TxStep) : (s.setTxStep t).freeReads = s.freeReads := rfl
@[simp] theorem State.setTxStep_packet (t : TxStep) (k : Buf) : (s.setTxStep t).packet k = s.packet k := by
  cases k <;> rfl
@[simp] theorem State.setTxStep_buf (t : TxStep) (k : RxBuf) : (s.setTxStep t).buf k = s.buf k := by
  cases k <;> rfl

/-! ### `chipReset` -/

@[simp] theorem State.chipReset_state : s.chipReset.state = .idle := rfl
@[simp] theorem State.chipReset_pos : s.chipReset.pos = 0x00#8 := rfl
@[simp] theorem State.chipReset_live : s.chipReset.live = s.live := rfl
@[simp] theorem State.chipReset_ready : s.chipReset.ready = s.ready := rfl
@[simp] theorem State.chipReset_irqEn : s.chipReset.irqEn = s.irqEn := rfl
@[simp] theorem State.chipReset_active : s.chipReset.active = s.active := rfl
@[simp] theorem State.chipReset_finished : s.chipReset.finished = s.finished := rfl
@[simp] theorem State.chipReset_fifoUser : s.chipReset.fifoUser = s.fifoUser := rfl
@[simp] theorem State.chipReset_out : s.chipReset.out = s.out ++ (Config.seqReset s.fifoUser).map .bus := rfl
@[simp] theorem State.chipReset_rxA : s.chipReset.rxA = s.rxA := rfl
@[simp] theorem State.chipReset_rxB : s.chipReset.rxB = s.rxB := rfl
@[simp] theorem State.chipReset_tx : s.chipReset.tx = s.tx := rfl
@[simp] theorem State.chipReset_result : s.chipReset.result = s.result := rfl
@[simp] theorem State.chipReset_txStep : s.chipReset.txStep = s.txStep := rfl
@[simp] theorem State.chipReset_calls : s.chipReset.calls = s.calls := rfl
@[simp] theorem State.chipReset_turns : s.chipReset.turns = s.turns := rfl
@[simp] theorem State.chipReset_freeReads : s.chipReset.freeReads = s.freeReads := rfl
@[simp] theorem State.chipReset_packet (k : Buf) : s.chipReset.packet k = s.packet k := by
  cases k <;> rfl
@[simp] theorem State.chipReset_buf (k : RxBuf) : s.chipReset.buf k = s.buf k := by
  cases k <;> rfl

/-! ### `eventEntry` -/

@[simp] theorem State.eventEntry_state : s.eventEntry.state = s.state := rfl
@[simp] theorem State.eventEntry_pos : s.eventEntry.pos = s.pos := rfl
@[simp] theorem State.eventEntry_live : s.eventEntry.live = true := rfl
@[simp] theorem State.eventEntry_ready : s.eventEntry.ready = s.ready := rfl
@[simp] theorem State.eventEntry_irqEn : s.eventEntry.irqEn = s.irqEn := rfl
@[simp] theorem State.eventEntry_active : s.eventEntry.active = s.active := rfl
@[simp] theorem State.eventEntry_finished : s.eventEntry.finished = s.finished := rfl
@[simp] theorem State.eventEntry_fifoUser : s.eventEntry.fifoUser = s.fifoUser := rfl
@[simp] theorem State.eventEntry_out : s.eventEntry.out = s.out ++ [.csAssert] := rfl
@[simp] theorem State.eventEntry_rxA : s.eventEntry.rxA = s.rxA := rfl
@[simp] theorem State.eventEntry_rxB : s.eventEntry.rxB = s.rxB := rfl
@[simp] theorem State.eventEntry_tx : s.eventEntry.tx = s.tx := rfl
@[simp] theorem State.eventEntry_result : s.eventEntry.result = s.result := rfl
@[simp] theorem State.eventEntry_txStep : s.eventEntry.txStep = s.txStep := rfl
@[simp] theorem State.eventEntry_calls : s.eventEntry.calls = s.calls := rfl
@[simp] theorem State.eventEntry_turns : s.eventEntry.turns = s.turns := rfl
@[simp] theorem State.eventEntry_freeReads : s.eventEntry.freeReads = s.freeReads := rfl
@[simp] theorem State.eventEntry_packet (k : Buf) : s.eventEntry.packet k = s.packet k := by
  cases k <;> rfl
@[simp] theorem State.eventEntry_buf (k : RxBuf) : s.eventEntry.buf k = s.buf k := by
  cases k <;> rfl

/-! ### `eventExit` -/

@[simp] theorem State.eventExit_state : s.eventExit.state = s.state := rfl
@[simp] theorem State.eventExit_pos : s.eventExit.pos = s.pos := rfl
@[simp] theorem State.eventExit_live : s.eventExit.live = s.live := rfl
@[simp] theorem State.eventExit_ready : s.eventExit.ready = s.ready := rfl
@[simp] theorem State.eventExit_irqEn : s.eventExit.irqEn = s.irqEn := rfl
@[simp] theorem State.eventExit_active : s.eventExit.active = s.active := rfl
@[simp] theorem State.eventExit_finished : s.eventExit.finished = s.finished := rfl
@[simp] theorem State.eventExit_fifoUser : s.eventExit.fifoUser = s.fifoUser := rfl
@[simp] theorem State.eventExit_out : s.eventExit.out = s.out ++ [.csDeassert] := rfl
@[simp] theorem State.eventExit_rxA : s.eventExit.rxA = s.rxA := rfl
@[simp] theorem State.eventExit_rxB : s.eventExit.rxB = s.rxB := rfl
@[simp] theorem State.eventExit_tx : s.eventExit.tx = s.tx := rfl
@[simp] theorem State.eventExit_result : s.eventExit.result = s.result := rfl
@[simp] theorem State.eventExit_txStep : s.eventExit.txStep = s.txStep := rfl
@[simp] theorem State.eventExit_calls : s.eventExit.calls = s.calls := rfl
@[simp] theorem State.eventExit_turns : s.eventExit.turns = s.turns := rfl
@[simp] theorem State.eventExit_freeReads : s.eventExit.freeReads = s.freeReads := rfl
@[simp] theorem State.eventExit_packet (k : Buf) : s.eventExit.packet k = s.packet k := by
  cases k <;> rfl
@[simp] theorem State.eventExit_buf (k : RxBuf) : s.eventExit.buf k = s.buf k := by
  cases k <;> rfl

/-! ### `endTurn` -/

@[simp] theorem State.endTurn_state : s.endTurn.state = s.state := rfl
@[simp] theorem State.endTurn_pos : s.endTurn.pos = s.pos := rfl
@[simp] theorem State.endTurn_live : s.endTurn.live = s.live := rfl
@[simp] theorem State.endTurn_ready : s.endTurn.ready = s.ready := rfl
@[simp] theorem State.endTurn_irqEn : s.endTurn.irqEn = s.irqEn := rfl
@[simp] theorem State.endTurn_active : s.endTurn.active = s.active := rfl
@[simp] theorem State.endTurn_finished : s.endTurn.finished = s.finished := rfl
@[simp] theorem State.endTurn_fifoUser : s.endTurn.fifoUser = s.fifoUser := rfl
@[simp] theorem State.endTurn_out : s.endTurn.out = s.out := rfl
@[simp] theorem State.endTurn_rxA : s.endTurn.rxA = s.rxA := rfl
@[simp] theorem State.endTurn_rxB : s.endTurn.rxB = s.rxB := rfl
@[simp] theorem State.endTurn_tx : s.endTurn.tx = s.tx := rfl
@[simp] theorem State.endTurn_result : s.endTurn.result = s.result := rfl
@[simp] theorem State.endTurn_txStep : s.endTurn.txStep = s.txStep := rfl
@[simp] theorem State.endTurn_calls : s.endTurn.calls = s.calls := rfl
@[simp] theorem State.endTurn_turns : s.endTurn.turns = s.turns.tail := rfl
@[simp] theorem State.endTurn_freeReads : s.endTurn.freeReads = s.freeReads := rfl
@[simp] theorem State.endTurn_packet (k : Buf) : s.endTurn.packet k = s.packet k := by
  cases k <;> rfl
@[simp] theorem State.endTurn_buf (k : RxBuf) : s.endTurn.buf k = s.buf k := by
  cases k <;> rfl

/-! ### `setPacket` -/

@[simp] theorem State.setPacket_state (b : Buf) (p : Packet) : (s.setPacket b p).state = s.state := by
  cases b <;> rfl
@[simp] theorem State.setPacket_pos (b : Buf) (p : Packet) : (s.setPacket b p).pos = s.pos := by
  cases b <;> rfl
@[simp] theorem State.setPacket_live (b : Buf) (p : Packet) : (s.setPacket b p).live = s.live := by
  cases b <;> rfl
@[simp] theorem State.setPacket_ready (b : Buf) (p : Packet) : (s.setPacket b p).ready = s.ready := by
  cases b <;> rfl
@[simp] theorem State.setPacket_irqEn (b : Buf) (p : Packet) : (s.setPacket b p).irqEn = s.irqEn := by
  cases b <;> rfl
@[simp] theorem State.setPacket_active (b : Buf) (p : Packet) : (s.setPacket b p).active = s.active := by
  cases b <;> rfl
@[simp] theorem State.setPacket_finished (b : Buf) (p : Packet) : (s.setPacket b p).finished = s.finished := by
  cases b <;> rfl
@[simp] theorem State.setPacket_fifoUser (b : Buf) (p : Packet) : (s.setPacket b p).fifoUser = s.fifoUser := by
  cases b <;> rfl
@[simp] theorem State.setPacket_out (b : Buf) (p : Packet) : (s.setPacket b p).out = s.out := by
  cases b <;> rfl
@[simp] theorem State.setPacket_result (b : Buf) (p : Packet) : (s.setPacket b p).result = s.result := by
  cases b <;> rfl
@[simp] theorem State.setPacket_txStep (b : Buf) (p : Packet) : (s.setPacket b p).txStep = s.txStep := by
  cases b <;> rfl
@[simp] theorem State.setPacket_calls (b : Buf) (p : Packet) : (s.setPacket b p).calls = s.calls := by
  cases b <;> rfl
@[simp] theorem State.setPacket_turns (b : Buf) (p : Packet) : (s.setPacket b p).turns = s.turns := by
  cases b <;> rfl
@[simp] theorem State.setPacket_freeReads (b : Buf) (p : Packet) : (s.setPacket b p).freeReads = s.freeReads := by
  cases b <;> rfl
@[simp] theorem State.setPacket_A_rxA (p : Packet) : (s.setPacket .A p).rxA = p := rfl
@[simp] theorem State.setPacket_A_rxB (p : Packet) : (s.setPacket .A p).rxB = s.rxB := rfl
@[simp] theorem State.setPacket_A_tx (p : Packet) : (s.setPacket .A p).tx = s.tx := rfl
@[simp] theorem State.setPacket_B_rxA (p : Packet) : (s.setPacket .B p).rxA = s.rxA := rfl
@[simp] theorem State.setPacket_B_rxB (p : Packet) : (s.setPacket .B p).rxB = p := rfl
@[simp] theorem State.setPacket_B_tx (p : Packet) : (s.setPacket .B p).tx = s.tx := rfl
@[simp] theorem State.setPacket_T_rxA (p : Packet) : (s.setPacket .T p).rxA = s.rxA := rfl
@[simp] theorem State.setPacket_T_rxB (p : Packet) : (s.setPacket .T p).rxB = s.rxB := rfl
@[simp] theorem State.setPacket_T_tx (p : Packet) : (s.setPacket .T p).tx = p := rfl
@[simp] theorem State.setPacket_packet_self (b : Buf) (p : Packet) : (s.setPacket b p).packet b = p := by
  cases b <;> rfl
theorem State.setPacket_packet_ne {b c : Buf} (p : Packet) (h : c ≠ b) :
    (s.setPacket b p).packet c = s.packet c := by
  cases b <;> cases c <;> first | rfl | exact absurd rfl h
@[simp] theorem State.setPacket_self (b : Buf) : s.setPacket b (s.packet b) = s := by
  cases b <;> rfl
@[simp] theorem State.setPacket_setPacket (b : Buf) (p q : Packet) :
    (s.setPacket b p).setPacket b q = s.setPacket b q := by
  cases b <;> rfl

@[simp] theorem State.packet_A : s.packet .A = s.rxA := rfl
@[simp] theorem State.packet_B : s.packet .B = s.rxB := rfl
@[simp] theorem State.packet_T : s.packet .T = s.tx := rfl
@[simp] theorem State.buf_A : s.buf .A = s.rxA := rfl
@[simp] theorem State.buf_B : s.buf .B = s.rxB := rfl

end Updates

/-! ### Buffer names -/

@[simp] theorem RxBuf.other_other (b : RxBuf) : b.other.other = b := by cases b <;> rfl

theorem RxBuf.other_ne (b : RxBuf) : b.other ≠ b := by cases b <;> decide

theorem RxBuf.toBuf_other_ne (b : RxBuf) : b.other.toBuf ≠ b.toBuf := by cases b <;> decide

theorem RxBuf.toBuf_ne_T (b : RxBuf) : b.toBuf ≠ .T := by cases b <;> decide

@[simp] theorem DriverState.ofCode_code (x : DriverState) : DriverState.ofCode x.code = some x := by
  cases x <;> rfl

end Sys2Proof.Machine
end

