-- ==== Sys2Proof/Laws/Ops.lean ====
section
/-! SUPPORT. Laws/Ops.lean: for each shared operation, once, everything it can do. Later proofs cite these and do not
unfold the operation. -/
namespace Sys2Proof.Machine

/-! ### Outcomes -/

@[simp] theorem andThen_next (s : State) (k : State → Outcome) : andThen (.next s) k = k s := rfl
@[simp] theorem andThen_fault (r : Fault) (k : State → Outcome) : andThen (.fault r) k = .fault r := rfl
@[simp] theorem andThen_refused (r : Refusal) (k : State → Outcome) : andThen (.refused r) k = .refused r := rfl

/-- A sequence answers a next state exactly when both parts do. -/
theorem andThen_eq_next {o : Outcome} {k : State → Outcome} {t : State} :
    andThen o k = .next t ↔ ∃ s, o = .next s ∧ k s = .next t := by
  cases o <;> simp

/-- A sequence faults when the first part does, or the second. -/
theorem andThen_eq_fault {o : Outcome} {k : State → Outcome} {r : Fault} :
    andThen o k = .fault r ↔ o = .fault r ∨ ∃ s, o = .next s ∧ k s = .fault r := by
  cases o <;> simp

/-! ### Memory primitives -/

/-- Inside the payload `MemRead` is the payload's byte. -/
theorem State.memRead_inside (s : State) (b : Buf) {i : Nat} (h : i < 64) :
    s.memRead b i = Memory.read (s.packet b).payload i := by
  simp [State.memRead, capacity, h]

/-- Past the payload `MemRead` is a free value. -/
theorem State.memRead_outside (s : State) (b : Buf) {i : Nat} (h : 64 ≤ i) :
    s.memRead b i = Config.freeByte s.freeReads := by
  have : ¬ i < 64 := by omega
  simp [State.memRead, capacity, this]

/-- Everything `MemWrite` can do when it answers a next state. -/
theorem State.memWrite_eq_next {s t : State} {b : Buf} {i : Nat} {v : Byte} :
    s.memWrite b i v = .next t ↔
      i < 64 ∧ t = s.setPacket b { s.packet b with payload := Memory.write (s.packet b).payload i v } := by
  unfold State.memWrite
  by_cases h : i < 64 <;> simp [capacity, h, eq_comm]

/-- `MemWrite` faults exactly outside the payload. -/
theorem State.memWrite_eq_fault {s : State} {b : Buf} {i : Nat} {v : Byte} {r : Fault} :
    s.memWrite b i v = .fault r ↔ 64 ≤ i ∧ r = .writeOutsidePayload b i := by
  unfold State.memWrite
  by_cases h : i < 64
  · simp [capacity, h]
  · have : 64 ≤ i := by omega
    simp [capacity, h, this, eq_comm]

/-! ### The state after a free read -/

/-- A read changes at most the count of free reads. -/
theorem State.afterRead_cases (s : State) (i : Nat) :
    (i < 64 ∧ s.afterRead i = s) ∨ (64 ≤ i ∧ s.afterRead i = { s with freeReads := s.freeReads + 1 }) := by
  by_cases h : i < 64
  · exact .inl ⟨h, by simp [State.afterRead, capacity, h]⟩
  · exact .inr ⟨by omega, by simp [State.afterRead, capacity, h]⟩

/-- A frame read changes at most the count of free reads. -/
theorem State.afterFrameRead_cases (s : State) (n : Nat) :
    s.afterFrameRead n = s ∨ s.afterFrameRead n = { s with freeReads := s.freeReads + 1 } := by
  unfold State.afterFrameRead
  split
  · exact .inl rfl
  · rcases s.afterRead_cases (frameIndex s.tx.ptype (n - 5)) with ⟨_, h⟩ | ⟨_, h⟩
    · exact .inl h
    · exact .inr h

/-! ### Guards -/

/-- A framer operation answers a next state only after `INIT` (R171). -/
theorem State.initialized_eq_next {s t : State} {k : State → Outcome} :
    s.initialized k = .next t ↔ s.irqEn = true ∧ k s = .next t := by
  unfold State.initialized
  by_cases h : s.irqEn = true <;> simp [h]

/-- A framer operation faults only after `INIT`. -/
theorem State.initialized_eq_fault {s : State} {k : State → Outcome} {r : Fault} :
    s.initialized k = .fault r ↔ s.irqEn = true ∧ k s = .fault r := by
  unfold State.initialized
  by_cases h : s.irqEn = true <;> simp [h]

/-- Everything a byte-ready step can do when it answers a next state (R120): nothing while the event source
is disabled, the chip-select pulse of a spurious wake, or the arm between entry and exit. -/
theorem State.byteReady_eq_next {s t : State} {own : DriverState} {attn : Bool} {arm : State → Outcome} :
    s.byteReady own attn arm = .next t ↔
      (s.irqEn = false ∧ t = s) ∨
      (s.irqEn = true ∧ attn = false ∧ t = s.spuriousWake) ∨
      (s.irqEn = true ∧ attn = true ∧ s.state = own ∧ ∃ u, arm s.eventEntry = .next u ∧ t = u.eventExit) := by
  unfold State.byteReady
  by_cases h : s.irqEn = true
  · cases attn
    · simp [h, eq_comm]
    · by_cases ho : s.state = own
      · have hcomm : ∀ u : State, u.eventExit = t ↔ t = u.eventExit := fun u => eq_comm
        simp [h, ho, andThen_eq_next, hcomm]
      · simp [h, ho]
  · simp [h, eq_comm]

/-- A byte-ready step faults only when its arm does. -/
theorem State.byteReady_eq_fault {s : State} {own : DriverState} {attn : Bool} {arm : State → Outcome}
    {r : Fault} :
    s.byteReady own attn arm = .fault r ↔
      s.irqEn = true ∧ attn = true ∧ s.state = own ∧ arm s.eventEntry = .fault r := by
  unfold State.byteReady
  by_cases h : s.irqEn = true
  · cases attn
    · simp [h]
    · by_cases ho : s.state = own
      · simp [h, ho, andThen_eq_fault]
      · simp [h, ho]
  · simp [h]

/-! ### The arms -/

/-- Everything the `IDLE` arm can do (R123). -/
theorem armIdle_eq (r : Word) (s : State) :
    (sizeOk (receivedByte r) = true ∧
      armIdle r s = .next ((((s.fifoRead.setState .receivingPacket).setSize s.active.toBuf (receivedByte r)).fillPayload
        s.active.toBuf (fun _ => 0x00#8)).setPos 0x01#8)) ∨
    (sizeOk (receivedByte r) = false ∧ armIdle r s = .next ((s.fifoRead.setPos 0x00#8).chipReset)) := by
  by_cases h : sizeOk (receivedByte r) = true
  · exact .inl ⟨h, by simp [armIdle, h]⟩
  · exact .inr ⟨by simpa using h, by simp [armIdle, h]⟩

/-- Everything the `TX` arm can do (R124): the wrap-up, or one byte emitted and counted. -/
theorem armTx_eq (s : State) :
    (s.pos.toNat = txTotal s.tx ∧
      armTx s = .next (((s.emit (Config.seqToRx s.fifoUser)).setState .idle).setPos 0x00#8)) ∨
    (s.pos.toNat ≠ txTotal s.tx ∧
      armTx s = .next (((s.txEmit (frameByte s s.pos.toNat)).afterFrameRead s.pos.toNat).setPos (s.pos + 1#8))) := by
  by_cases h : s.pos.toNat = txTotal s.tx
  · exact .inl ⟨h, by simp [armTx, h]⟩
  · exact .inr ⟨h, by simp [armTx, h]⟩

/-- Everything the `RX` arm can do when it answers a next state (R128): the type byte, or one byte of the
payload stored at an index inside it, counted, and the completion test. -/
theorem armRx_eq_next {r : Word} {s t : State} (h : armRx r s = .next t) :
    (s.pos.toNat = 1 ∧ t = (s.fifoRead.setType s.active.toBuf (receivedByte r)).setPos 0x02#8) ∨
    (s.pos.toNat ≠ 1 ∧ ∃ i v, i < 64 ∧
      i = (if isEcc (s.buf s.active).ptype then (s.pos.toNat - 2) / 2 else s.pos.toNat - 2) ∧
      t = (s.fifoRead.setPacket s.active.toBuf
            { s.buf s.active with payload := Memory.write (s.buf s.active).payload i v }).countReceived
          s.active (rxTotal (s.buf s.active))) := by
  unfold armRx at h
  by_cases hp : s.pos.toNat = 1
  · simp only [State.fifoRead_pos, hp, if_true] at h
    exact .inl ⟨hp, by injection h with h; exact h.symm⟩
  · simp only [State.fifoRead_pos, hp, if_false, State.fifoRead_buf, rxOverhead] at h
    obtain ⟨u, hu, ht⟩ := andThen_eq_next.mp h
    refine .inr ⟨hp, ?_⟩
    by_cases he : isEcc (s.buf s.active).ptype = true
    · simp only [he, if_true, State.storeEcc, State.memWrite_eq_next] at hu
      obtain ⟨hi, rfl⟩ := hu
      exact ⟨_, _, hi, by simp [he], by injection ht with ht; exact ht.symm⟩
    · simp only [he, if_false, State.memWrite_eq_next, Bool.false_eq_true] at hu
      obtain ⟨hi, rfl⟩ := hu
      exact ⟨_, _, hi, by simp [he], by injection ht with ht; exact ht.symm⟩

/-! ### The serial link -/

/-- What is driven adds its bytes to the link, after those before it (R42). -/
@[simp] theorem State.drive_linkOut (s : State) (l : List OutEvent) :
    (s.drive l).linkOut = s.linkOut ++ l.flatMap OutEvent.link := by simp [State.linkOut, State.drive]

/-- A transfer puts its low byte, then its high byte on the link (R42, R43). -/
@[simp] theorem State.xfer_linkOut (s : State) (w : Word) :
    (s.xfer w).linkOut = s.linkOut ++ [w.extractLsb' 0 8, w.extractLsb' 8 8] := by
  simp [State.xfer, OutEvent.link, linkBytes, lowByteOf, highByteOf]

/-- A sequence puts the bytes of its words on the link, word by word (R42, 00_scope.md R9). -/
@[simp] theorem State.emit_linkOut (s : State) (ws : List Word) :
    (s.emit ws).linkOut = s.linkOut ++ ws.flatMap linkBytes := by
  rw [State.emit, State.drive_linkOut, List.flatMap_map]
  rfl

/-! ### Procedures of the host operations -/

/-- Everything `enterTone` can do (R101). -/
theorem State.enterTone_cases (s : State) (x : DriverState) :
    (s.state.isTone = true ∧ s.enterTone x = { s with state := x }) ∨
    (s.state.isTone = false ∧
      s.enterTone x = { s with state := x, out := s.out ++ Config.seqArmTx.map .bus }) := by
  by_cases h : s.state.isTone = true
  · exact .inl ⟨h, by simp [State.enterTone, h, State.setState]⟩
  · exact .inr ⟨by simpa using h, by simp [State.enterTone, h, State.setState, State.emit, State.drive]⟩

/-- Everything `TRANSMIT` can do when it answers a next state (R91): after `INIT`, with a packet that meets
R92, the step T1, T2 or T3 that is due. -/
theorem execTransmit_eq_next {size ptype : Byte} {payload : List Byte} {s t : State}
    (h : execTransmit size ptype payload s = .next t) :
    s.irqEn = true ∧ packetOk size ptype = true ∧
      ((s.txStep = .t1 ∧ t = s.transmitT1) ∨ (s.txStep = .t2 ∧ t = s.transmitT2) ∨
        (s.txStep = .t3 ∧ s.state = .transmittingPacket ∧ t = s.transmitT3 size ptype payload)) := by
  obtain ⟨hi, h⟩ := State.initialized_eq_next.mp h
  by_cases hp : packetOk size ptype = true
  · rw [if_pos hp] at h
    refine ⟨hi, hp, ?_⟩
    cases hs : s.txStep <;> rw [hs] at h
    · exact .inl ⟨rfl, by injection h with h; exact h.symm⟩
    · exact .inr (.inl ⟨rfl, by injection h with h; exact h.symm⟩)
    · by_cases hst : s.state = .transmittingPacket
      · simp only [hst, if_true] at h
        exact .inr (.inr ⟨rfl, hst, by injection h with h; exact h.symm⟩)
      · simp [hst] at h
  · simp [hp] at h

end Sys2Proof.Machine
end

