-- ==== Sys2Proof/Laws/PerInstr.lean ====
section
/-! SUPPORT. Laws/PerInstr.lean: one lemma per constructor for each family of LAWS.json. -/
namespace Sys2Proof.Laws.EncodedSelector

/-- The code of an instruction in its selector space, as spec/opcode_table.json numbers it. -/
def code : Instr → Nat
  | .init => 0x0
  | .transmit _ _ _ => 0x1
  | .receive => 0x2
  | .isIdle => 0x3
  | .isAlive => 0x4
  | .setRegister _ => 0x5
  | .setFrequency _ => 0x6
  | .txZero => 0x7
  | .txOne => 0x8
  | .txAlt => 0x9
  | .reset => 0xA
  | .encNibble _ => 0xB
  | .decNibble _ => 0xC
  | .encByte _ => 0xD
  | .decByte _ => 0xE
  | .reservedOpF => 0xF
  | .byteReadyIdle _ _ => 0
  | .byteReadyTx _ => 1
  | .byteReadyRx _ _ => 2
  | .byteReadyTone0 _ => 3
  | .byteReadyTone1 _ => 4
  | .byteReadyToneA _ => 5
  | .reservedState6 _ => 6
  | .reservedState7 _ => 7

/-- The selector bits of an encoded instruction are its row's code: four bits in the operation space, three
in the event space (30_encoding.md R66, R67). -/
def Statement (i : Instr) : Prop :=
  ∃ b rest, encode i = b :: rest ∧
    b.toNat % (match i.format with | .op => 16 | .event => 8) = code i

/-- The low three bits of an event's selector byte are the state code (R67). -/
theorem selector_code : ∀ (c : BitVec 3) (attn : Bool), (eventSelector c attn).toNat % 8 = c.toNat := by
  decide

theorem init : Statement .init := ⟨_, _, rfl, rfl⟩
theorem transmit (size ptype : Byte) (payload : List Byte) : Statement (.transmit size ptype payload) :=
  ⟨_, _, rfl, rfl⟩
theorem receive : Statement .receive := ⟨_, _, rfl, rfl⟩
theorem isIdle : Statement .isIdle := ⟨_, _, rfl, rfl⟩
theorem isAlive : Statement .isAlive := ⟨_, _, rfl, rfl⟩
theorem setRegister (w : Word) : Statement (.setRegister w) := ⟨_, _, rfl, rfl⟩
theorem setFrequency (v : Word) : Statement (.setFrequency v) := ⟨_, _, rfl, rfl⟩
theorem txZero : Statement .txZero := ⟨_, _, rfl, rfl⟩
theorem txOne : Statement .txOne := ⟨_, _, rfl, rfl⟩
theorem txAlt : Statement .txAlt := ⟨_, _, rfl, rfl⟩
theorem reset : Statement .reset := ⟨_, _, rfl, rfl⟩
theorem encNibble (v : Nibble) : Statement (.encNibble v) := ⟨_, _, rfl, rfl⟩
theorem decNibble (s : Symbol) : Statement (.decNibble s) := ⟨_, _, rfl, rfl⟩
theorem encByte (b : Byte) : Statement (.encByte b) := ⟨_, _, rfl, rfl⟩
theorem decByte (p : Word) : Statement (.decByte p) := ⟨_, _, rfl, rfl⟩
theorem reservedOpF : Statement .reservedOpF := ⟨_, _, rfl, rfl⟩
theorem byteReadyIdle (attn : Bool) (r : Word) : Statement (.byteReadyIdle attn r) :=
  ⟨_, _, rfl, selector_code _ attn⟩
theorem byteReadyTx (attn : Bool) : Statement (.byteReadyTx attn) := ⟨_, _, rfl, selector_code _ attn⟩
theorem byteReadyRx (attn : Bool) (r : Word) : Statement (.byteReadyRx attn r) :=
  ⟨_, _, rfl, selector_code _ attn⟩
theorem byteReadyTone0 (attn : Bool) : Statement (.byteReadyTone0 attn) := ⟨_, _, rfl, selector_code _ attn⟩
theorem byteReadyTone1 (attn : Bool) : Statement (.byteReadyTone1 attn) := ⟨_, _, rfl, selector_code _ attn⟩
theorem byteReadyToneA (attn : Bool) : Statement (.byteReadyToneA attn) := ⟨_, _, rfl, selector_code _ attn⟩
theorem reservedState6 (attn : Bool) : Statement (.reservedState6 attn) := ⟨_, _, rfl, selector_code _ attn⟩
theorem reservedState7 (attn : Bool) : Statement (.reservedState7 attn) := ⟨_, _, rfl, selector_code _ attn⟩

end Sys2Proof.Laws.EncodedSelector
end

