-- ==== Sys2Proof/Tests/Slice0.lean ====
section
/-! SUPPORT. Tests/Slice0.lean: the smoke test of `WellFormed`, words written out from the operation map
(30_encoding.md R66, R67), single steps with results from 95_test_vectors.md or worked by hand from the rules,
and for every statement of Certificates/Slice0/Obligations.lean that has hypotheses a state and operands that
meet them together. -/
namespace Sys2Proof.Tests

open Sys2Proof.Machine Sys2Proof.Safety

/-! ### Helpers -/

/-- A driver that has been initialized, with nothing received. -/
def on : State := { State.reset with irqEn := true, fifoUser := 0x0000#16 }

/-- A payload whose byte at each index is the index. -/
def ramp : Memory := Memory.fill [] (BitVec.ofNat 8)

/-- An initialized driver that transmits a packet, at a counter value. -/
def sending (size ptype pos : Byte) : State :=
  { on with state := .transmittingPacket, pos := pos, tx := { payloadSize := size, ptype := ptype, payload := ramp } }

/-- An initialized driver that receives a packet into buffer A, at a counter value. -/
def receiving (size ptype pos : Byte) : State :=
  { on with state := .receivingPacket, pos := pos, rxA := { payloadSize := size, ptype := ptype, payload := [] } }

/-- An initialized driver in a state, with `TRANSMIT` at a step. -/
def pending (x : DriverState) (t : TxStep) : State := { on with state := x, txStep := t }

/-- A view of the next state, if there is one. -/
def look {α : Type} (view : State → α) : Outcome → Option α
  | .next s => some (view s)
  | .fault _ => none
  | .refused _ => none

/-- The step goes on. -/
def goesOn (o : Outcome) : Bool := (look (fun _ => ()) o).isSome

/-- Why the step is refused, if it is. -/
def refusal : Outcome → Option Refusal
  | .refused q => some q
  | .next _ => none
  | .fault _ => none

/-- A 64-byte payload of zeros. -/
def zeros : List Byte := List.replicate 64 0x00#8

/-! ### Well-formedness -/

theorem test_payload_of_63_refused : (Instr.transmit 1#8 1#8 (List.replicate 63 0#8)).wellFormed = false := by decide
theorem test_payload_of_65_refused : (Instr.transmit 1#8 1#8 (List.replicate 65 0#8)).wellFormed = false := by decide
theorem test_payload_of_64_accepted : (Instr.transmit 1#8 1#8 zeros).wellFormed = true := by decide

/-! ### Decoding: a word for every row, from its select or code in R66 and R67 -/

theorem test_decode_init : decode .op [0b00000000#8] = .ok (.init, []) := by decide
theorem test_decode_transmit :
    decode .op (0b00000001#8 :: 0x02#8 :: 0x03#8 :: zeros) = .ok (.transmit 2#8 3#8 zeros, []) := by decide
theorem test_decode_receive : decode .op [0b00000010#8] = .ok (.receive, []) := by decide
theorem test_decode_is_idle : decode .op [0b00000011#8] = .ok (.isIdle, []) := by decide
theorem test_decode_is_alive : decode .op [0b00000100#8] = .ok (.isAlive, []) := by decide
theorem test_decode_set_register :
    decode .op [0b00000101#8, 0xEF#8, 0xBE#8] = .ok (.setRegister 0xBEEF#16, []) := by decide
theorem test_decode_set_frequency :
    decode .op [0b00000110#8, 0x61#8, 0x10#8] = .ok (.setFrequency 0x1061#16, []) := by decide
theorem test_decode_tx_zero : decode .op [0b00000111#8] = .ok (.txZero, []) := by decide
theorem test_decode_tx_one : decode .op [0b00001000#8] = .ok (.txOne, []) := by decide
theorem test_decode_tx_alt : decode .op [0b00001001#8] = .ok (.txAlt, []) := by decide
theorem test_decode_reset : decode .op [0b00001010#8] = .ok (.reset, []) := by decide
theorem test_decode_enc_nibble : decode .op [0b00001011#8, 0x0A#8] = .ok (.encNibble 0xA#4, []) := by decide
theorem test_decode_dec_nibble : decode .op [0b00001100#8, 0x63#8] = .ok (.decNibble 0x63#8, []) := by decide
theorem test_decode_enc_byte : decode .op [0b00001101#8, 0xA5#8] = .ok (.encByte 0xA5#8, []) := by decide
theorem test_decode_dec_byte : decode .op [0b00001110#8, 0x55#8, 0xAA#8] = .ok (.decByte 0xAA55#16, []) := by decide
theorem test_decode_reserved_op : decode .op [0b00001111#8] = .ok (.reservedOpF, []) := by decide
theorem test_decode_event_idle :
    decode .event [0b00001000#8, 0x40#8, 0x12#8] = .ok (.byteReadyIdle true 0x1240#16, []) := by decide
theorem test_decode_event_tx : decode .event [0b00001001#8] = .ok (.byteReadyTx true, []) := by decide
theorem test_decode_event_rx :
    decode .event [0b00000010#8, 0x40#8, 0x12#8] = .ok (.byteReadyRx false 0x1240#16, []) := by decide
theorem test_decode_event_tone0 : decode .event [0b00001011#8] = .ok (.byteReadyTone0 true, []) := by decide
theorem test_decode_event_tone1 : decode .event [0b00000100#8] = .ok (.byteReadyTone1 false, []) := by decide
theorem test_decode_event_toneA : decode .event [0b00001101#8] = .ok (.byteReadyToneA true, []) := by decide
theorem test_decode_event_6 : decode .event [0b00001110#8] = .ok (.reservedState6 true, []) := by decide
theorem test_decode_event_7 : decode .event [0b00000111#8] = .ok (.reservedState7 false, []) := by decide

theorem test_decode_nothing : decode .op [] = .error .noBytes := by decide
theorem test_decode_bits_above_select : decode .op [0x10#8] = .error .selectorBits := by decide
theorem test_decode_bits_above_code : decode .event [0x10#8] = .error .selectorBits := by decide
theorem test_decode_short_word : decode .op [0x05#8, 0x00#8] = .error .truncated := by decide
theorem test_decode_wide_nibble : decode .op [0x0B#8, 0x10#8] = .error .nibbleBits := by decide
theorem test_table_word_op : decodeTableWord 4 0x0B = some (.encNibble 0x0#4) := by decide
theorem test_table_word_event : decodeTableWord 3 0x5 = some (.byteReadyToneA false) := by decide

/-! ### The step -/

theorem test_fetch_word_runs_isIdle :
    look State.result (step (State.reset.withFetchWord 8 0x03)) = some (.bit true) := by decide
theorem test_fetch_word_runs_decNibble :
    look State.result (step (State.reset.withFetchWord 8 0x0C)) = some (.nibble 0x0#4) := by decide
theorem test_fetch_word_runs_event :
    goesOn (step (State.reset.withFetchWord 3 0x2)) = true := by decide
theorem test_first_call_before_init :
    refusal (step (State.reset.withFetchWord 8 0x02)) = some .beforeInit := by decide

/-! ### Single steps -/

/-- 95_test_vectors.md, the byte samples: `ENC_BYTE(0xA5) = 0xAA55`. -/
theorem test_encByte_A5 : look State.result (exec (.encByte 0xA5#8) on) = some (.word 0xAA55#16) := by decide
/-- One flipped bit in the high half (R79). -/
theorem test_decByte_corrects : look State.result (exec (.decByte 0xAB55#16) on) = some (.byte 0xA5#8) := by decide
/-- The table of R75. -/
theorem test_encNibble_3 : look State.result (exec (.encNibble 0x3#4) on) = some (.byte 0x63#8) := by decide
/-- The table of R85, a symbol at distance 2: row 1, column 5. -/
theorem test_decNibble_tie : look State.result (exec (.decNibble 0x15#8) on) = some (.nibble 0x5#4) := by decide
/-- `INIT` enables the event source (R88). -/
theorem test_init_enables : look State.irqEn (exec .init State.reset) = some true := by decide
/-- `IS_ALIVE` clears the flag (R90). -/
theorem test_isAlive_clears :
    look (fun t => (t.live, t.result)) (exec .isAlive { sending 1#8 1#8 3#8 with live := true }) =
      some (false, .bit true) := by decide
theorem test_isAlive_stall : look State.result (exec .isAlive (sending 1#8 1#8 3#8)) = some (.bit false) := by decide
/-- `RECEIVE` names the finished buffer once (R97). -/
theorem test_receive_consumes :
    look (fun t => (t.ready, t.result)) (exec .receive { on with ready := true, finished := .B, active := .A }) =
      some (false, .buffer (some .B)) := by decide
/-- The mask keeps 12 bits, so 0x1061 is the legal 0x061 = 97 (R73). -/
theorem test_setFrequency_masks :
    look (fun t => t.out.length) (exec (.setFrequency 0x1061#16) on) = some 1 := by decide
theorem test_setFrequency_ignores :
    look (fun t => t.out.length) (exec (.setFrequency 0x0060#16) on) = some 0 := by decide
/-- The link carries the low byte first, both ways (R42). -/
theorem test_link_order :
    (on.xfer 0x1234#16).linkOut = [0x34#8, 0x12#8] ∧ wordOfLink 0x34#8 0x12#8 = 0x1234#16 := by decide
/-- The tone operations keep the counter (R137). -/
theorem test_txOne_keeps_pos :
    look (fun t => (t.state, t.pos)) (exec .txOne (sending 2#8 1#8 7#8)) = some (.transmitOne, 7#8) := by decide
theorem test_txZero : look State.state (exec .txZero (pending .transmitAlternating .t1)) = some .transmitZero := by decide
theorem test_txAlt : look State.state (exec .txAlt on) = some .transmitAlternating := by decide
theorem test_reset_clears :
    look (fun t => (t.state, t.pos)) (exec .reset (sending 2#8 1#8 7#8)) = some (.idle, 0#8) := by decide
/-- T3 copies the packet and clears the counter (R95). -/
theorem test_transmit_t3_copies :
    look (fun t => (t.tx.payloadSize, t.tx.ptype, t.tx.payload, t.txStep))
      (exec (.transmit 1#8 3#8 (0x5A#8 :: List.replicate 63 0#8)) (pending .transmittingPacket .t3)) =
      some (1#8, 3#8, [(0, 0x5A#8)], .t1) := by decide +kernel
/-- The boundaries of the size byte (R63, R123). -/
theorem test_idle_size_64 :
    look (fun t => (t.state, t.pos, t.rxA.payloadSize)) (exec (.byteReadyIdle true 0x0040#16) on) =
      some (.receivingPacket, 1#8, 64#8) := by decide +kernel
theorem test_idle_size_65 :
    look (fun t => (t.state, t.pos, t.rxA.payloadSize)) (exec (.byteReadyIdle true 0x0041#16) on) =
      some (.idle, 0#8, 0#8) := by decide
/-- The first symbol gives the low half, the second the high half (R131): `0x63` is 3, `0xB1` is 1. -/
theorem test_rx_ecc_low :
    look (fun t => t.rxA.payload) (exec (.byteReadyRx true 0x0063#16) (receiving 2#8 4#8 2#8)) =
      some [(0, 0x03#8)] := by decide
theorem test_rx_ecc_high :
    look (fun t => t.rxA.payload) (exec (.byteReadyRx true 0x00B1#16)
      { receiving 1#8 4#8 3#8 with rxA := { payloadSize := 1#8, ptype := 4#8, payload := [(0, 0x03#8)] } }) =
      some [(0, 0x13#8)] := by decide
/-- The publication (R133). -/
theorem test_rx_completes :
    look (fun t => (t.state, t.active, t.finished, t.pos)) (exec (.byteReadyRx true 0x00B1#16) (receiving 1#8 4#8 3#8)) =
      some (.idle, .B, .A, 0#8) := by decide
/-- Header, payload and trailing byte of a raw packet (R125, R126, P1 of 95_test_vectors.md). -/
theorem test_tx_header :
    (List.range 5).map (frameByte (sending 2#8 1#8 0#8)) = [0xAA#8, 0x2D#8, 0xD4#8, 0x02#8, 0x01#8] := by decide
theorem test_tx_payload :
    [frameByte (sending 2#8 1#8 0#8) 5, frameByte (sending 2#8 1#8 0#8) 6, frameByte (sending 2#8 1#8 0#8) 7] =
      [0x00#8, 0x01#8, 0x02#8] := by decide +kernel
theorem test_tone_arms_stay :
    [look State.state (exec (.byteReadyTone0 true) (pending .transmitZero .t1)),
     look State.state (exec (.byteReadyTone1 true) (pending .transmitOne .t1)),
     look State.state (exec (.byteReadyToneA true) (pending .transmitAlternating .t1))] =
      [some .transmitZero, some .transmitOne, some .transmitAlternating] := by decide
theorem test_reserved_refused :
    [refusal (exec .reservedOpF on), refusal (exec (.reservedState6 true) on),
     refusal (exec (.reservedState7 true) on)] =
      [some .reservedOperation, some .reservedStateCode, some .reservedStateCode] := by decide

/-! ### Witnesses: states and operands that meet the hypotheses of the statements -/

/-- A state with nothing pending in `Idle` meets the driver's invariant. -/
theorem inv_on : DriverInv on :=
  ⟨by decide, by decide, by decide, BitVec.zero_and, by decide, by decide, by decide, by decide, by decide,
    by decide, by decide, by decide, by decide⟩

/-- A reception of 64 ECC bytes before its last symbol. -/
theorem inv_receiving : DriverInv (receiving 64#8 4#8 129#8) :=
  ⟨by decide, by decide, by decide, BitVec.zero_and, by decide, by decide, by decide, by decide, by decide,
    by decide, by decide, by decide, by decide⟩

/-- A transmission of 64 ECC bytes at its total. -/
theorem inv_sending : DriverInv (sending 64#8 4#8 134#8) :=
  ⟨by decide, by decide, by decide, BitVec.zero_and, by decide, by decide, by decide, by decide, by decide,
    by decide, by decide, by decide +kernel, by decide⟩

/-- A transmission of which `TRANSMIT` has not loaded the packet yet. -/
theorem inv_acquired : DriverInv (pending .transmittingPacket .t3) :=
  ⟨by decide, by decide, by decide, BitVec.zero_and, by decide, by decide, by decide, by decide, by decide,
    by decide, by decide, by decide, by decide⟩

/-- A tone state with `TRANSMIT` at its first step. -/
theorem inv_tone : DriverInv (pending .transmitOne .t1) :=
  ⟨by decide, by decide, by decide, BitVec.zero_and, by decide, by decide, by decide, by decide, by decide,
    by decide, by decide, by decide, by decide⟩

/-- The power-on state before `INIT`. -/
theorem inv_masked : DriverInv { State.reset with fifoUser := 0x0000#16 } :=
  ⟨by decide, by decide, by decide, BitVec.zero_and, by decide, by decide, by decide, by decide, by decide,
    by decide, by decide, by decide, by decide⟩

/-- The bytes past the size of a packet being received are zero. -/
theorem tail_receiving : TailZero (receiving 64#8 4#8 129#8) := ⟨fun _ _ _ => rfl, fun h => by cases h⟩

/-- `DecodeOfEncodeGivesInstr`, `DecodedBytesAreTheEncoding`. -/
theorem witness_decode :
    (Instr.transmit 64#8 4#8 zeros).wellFormed = true ∧
    decode .op (encode (.transmit 64#8 4#8 zeros) ++ [0x01#8]) = .ok (.transmit 64#8 4#8 zeros, [0x01#8]) := by
  decide

/-- `HostTurnRunsDecodedCall`, with a call that returns and one that is refused. -/
theorem witness_hostTurn :
    let s : State := { on with turns := [.host], calls := [0x03#8, 0x0F#8] }
    decode .op s.calls = .ok (.isIdle, [0x0F#8]) ∧ look State.calls (step s) = some [0x0F#8] ∧
    decode .op [0x0F#8] = .ok (.reservedOpF, []) ∧
    refusal (step { s with calls := [0x0F#8] }) = some .reservedOperation := by decide

/-- `EventTurnRunsSelectedArm`, with an event that goes on and one that faults. -/
theorem witness_eventTurn :
    look State.turns (step { receiving 2#8 1#8 1#8 with turns := [.event true 0x0001#16] }) = some [] ∧
    (step { receiving 64#8 1#8 66#8 with turns := [.event true 0x0001#16] } =
      .fault (.writeOutsidePayload .A 64)) := ⟨by decide, rfl⟩

/-- `NoTurnNoChange`, the second clause. -/
theorem witness_idleHost :
    let s : State := { on with turns := [.host, .host] }
    s.calls = [] ∧ look State.turns (step s) = some [.host] := by decide

/-- `StepKeepsDriverInvariant`, `StepKeepsZeroTail`, `NoFaultUnderInvariant`, `EventSetsLiveness`: the event
that completes a packet of 64 bytes. -/
theorem witness_invariant :
    let s : State := { receiving 64#8 4#8 129#8 with turns := [.event true 0x00FF#16] }
    DriverInv s ∧ TailZero s ∧ s.irqEn = true ∧
      look (fun t => (t.state, t.ready, t.rxA.payload)) (step s) = some (.idle, true, [(63, 0xF0#8)]) :=
  ⟨⟨by decide, by decide, by decide, BitVec.zero_and, by decide, by decide, by decide, by decide, by decide,
    by decide, by decide, by decide, by decide⟩, ⟨fun _ _ _ => rfl, fun h => by cases h⟩, rfl, by decide⟩

/-- A code that is not the default one: the largest of the nearest nibbles instead of the smallest. -/
def otherCode : Config.Code := { defaultCode with dec := fun y => (near defaultCode y).getLastD 0#4 }

/-- `DecNibbleReturnsNearest`, `CodecCorrectsSingleBit`: a code that meets R74, with a symbol at each of the
distances 0, 1 and 2, where it answers otherwise than the default. -/
theorem witness_code :
    CodeOk otherCode ∧ minDist otherCode 0x63#8 = 0 ∧ minDist otherCode 0x62#8 = 1 ∧
      minDist otherCode 0x03#8 = 2 ∧ decodeNibble otherCode 0x03#8 ≠ decodeNibble defaultCode 0x03#8 :=
  ⟨⟨by decide +kernel, by decide +kernel,
    ⟨fun k => k.castLE (by decide), fun a b h => by simpa [Fin.ext_iff] using h, by decide +kernel⟩,
    by decide +kernel⟩, by decide +kernel, by decide +kernel, by decide +kernel, by decide +kernel⟩

/-- `IsIdleTestsState`, `IsAliveTruthTable`: every row of the two tables. -/
theorem witness_status :
    on.state = .idle ∧ on.live = false ∧ (sending 1#8 1#8 3#8).state ≠ .idle ∧
    (sending 1#8 1#8 3#8).live = false ∧ ({ on with live := true } : State).live = true := by decide

/-- The statements whose hypothesis is that `INIT` has run: `ReceiveConsumesReady`,
`SetRegisterForwardsOrMerges`, `SetFrequencyMasksThenChecks`, `ResetForcesIdle`,
`SpuriousWakeOnlyPulsesSelect`, `EventBusTransfers`. -/
theorem witness_initialized :
    on.irqEn = true ∧ goesOn (exec .receive on) = true ∧ goesOn (exec .receive { on with ready := true }) = true ∧
    goesOn (exec .reset on) = true ∧ goesOn (exec (.byteReadyIdle false 0x0000#16) on) = true := by decide

/-- `SetFrequencyMasksThenChecks`: the bounds, one to each side of them. -/
theorem witness_frequency :
    [0x0060#16, 0x0061#16, 0x0F3F#16, 0x0F40#16].map
      (fun v => look (fun t => t.out.length) (exec (.setFrequency v) on)) =
      [some 0, some 1, some 1, some 0] := by decide

/-- `SetRegisterForwardsOrMerges`: both clauses end in a next state. -/
theorem witness_register (w : Word) : (look (fun t => t.result) (exec (.setRegister w) on)) = some .nothing := rfl

/-- `TransmitT1LeavesTone`: a tone state and another state, with the bounds of the size and the type. -/
theorem witness_transmitT1 :
    look (fun t => (t.state, t.txStep)) (exec (.transmit 64#8 4#8 zeros) (pending .transmitOne .t1)) =
      some (.idle, .t2) ∧
    look (fun t => (t.state, t.txStep)) (exec (.transmit 0#8 1#8 zeros) (pending .receivingPacket .t1)) =
      some (.receivingPacket, .t2) := by decide

/-- `TransmitT2AcquiresIdle`: `Idle` and another state. -/
theorem witness_transmitT2 :
    look (fun t => (t.state, t.txStep)) (exec (.transmit 64#8 4#8 zeros) (pending .idle .t2)) =
      some (.transmittingPacket, .t3) ∧
    exec (.transmit 0#8 1#8 zeros) (pending .receivingPacket .t2) = .next (pending .receivingPacket .t2) :=
  ⟨by decide, rfl⟩

/-- `TransmitT3LoadsAndArms`: `TransmittingPacket` and another state. -/
theorem witness_transmitT3 :
    goesOn (exec (.transmit 64#8 4#8 zeros) (pending .transmittingPacket .t3)) = true ∧
    refusal (exec (.transmit 0#8 1#8 zeros) (pending .idle .t3)) = some .transmitOvertaken := by decide

/-- `TransmitCompletesFromIdleOrTone`: `Idle` and each tone state. -/
theorem witness_transmitCompletes :
    [DriverState.idle, .transmitZero, .transmitOne, .transmitAlternating].all (fun x =>
      look State.state (andThen (andThen (exec (.transmit 64#8 4#8 zeros) (pending x .t1))
        (exec (.transmit 64#8 4#8 zeros))) (exec (.transmit 64#8 4#8 zeros))) == some .transmittingPacket) := by
  decide

/-- `TransmitRefusesBadPacket`: each way to break the preconditions, at its bound. -/
theorem witness_badPacket :
    [(65, 1), (64, 0), (64, 5)].map (fun p =>
      refusal (exec (.transmit (BitVec.ofNat 8 p.1) (BitVec.ofNat 8 p.2) zeros) on)) =
      [some .packetPrecondition, some .packetPrecondition, some .packetPrecondition] := by decide

/-- `TransmitHoldsWhileNotIdle`: two host turns pass. -/
theorem witness_hold :
    let s : State := { pending .receivingPacket .t2 with
      calls := encode (.transmit 1#8 1#8 zeros), turns := [.host, .host, .event true 0x0001#16] }
    decode .op s.calls = .ok (.transmit 1#8 1#8 zeros, []) ∧
    look State.turns (Sys2Proof.core.run 2 s : Outcome) = some [.event true 0x0001#16] := by decide

/-- `ExactlyOneSideWinsIdle`: both orders, with a size byte at its bound. -/
theorem witness_race :
    DriverInv (pending .idle .t2) ∧
    look State.state (andThen (exec (.byteReadyIdle true 0x0040#16) (pending .idle .t2))
      (exec (.transmit 1#8 1#8 zeros))) = some .receivingPacket ∧
    look State.state (andThen (exec (.transmit 1#8 1#8 zeros) (pending .idle .t2))
      (exec (.byteReadyTx true))) = some .transmittingPacket :=
  ⟨⟨by decide, by decide, by decide, BitVec.zero_and, by decide, by decide, by decide, by decide, by decide,
    by decide, by decide, by decide, by decide⟩, by decide, by decide⟩

/-- `ToneOperationsEnterTone`: each operation, from a tone state and from another state. -/
theorem witness_toneOperations :
    [look State.state (exec .txZero on), look State.state (exec .txZero (pending .transmitOne .t1)),
     look State.state (exec .txOne on), look State.state (exec .txOne (pending .transmitOne .t1)),
     look State.state (exec .txAlt on), look State.state (exec .txAlt (pending .transmitOne .t1))] =
      [some .transmitZero, some .transmitZero, some .transmitOne, some .transmitOne,
       some .transmitAlternating, some .transmitAlternating] := by decide

/-- `BeforeInitRefused`, `DisabledEventChangesNothing`: a state before `INIT`. -/
theorem witness_beforeInit :
    let s : State := { State.reset with fifoUser := 0x0000#16 }
    DriverInv s ∧ s.irqEn = false ∧ refusal (exec .receive s) = some .beforeInit ∧
      exec (.byteReadyIdle true 0x0001#16) s = .next s := ⟨inv_masked, rfl, rfl, rfl⟩

/-- `IdleArmTakesSizeByte`: the size bytes 0, 1, 64 and 65. -/
theorem witness_idleArm :
    [0x0000#16, 0x0001#16, 0x0040#16, 0x0041#16].map (fun r => look State.state (exec (.byteReadyIdle true r) on)) =
      [some .idle, some .receivingPacket, some .receivingPacket, some .idle] := by decide

/-- `TxArmWrapsUpAtTotal`: the smallest and the largest total. -/
theorem witness_wrapUp :
    (6 : Byte).toNat = txTotal (sending 0#8 1#8 6#8).tx ∧ (134 : Byte).toNat = txTotal (sending 64#8 2#8 134#8).tx ∧
    look State.state (exec (.byteReadyTx true) (sending 0#8 1#8 6#8)) = some .idle ∧
    look State.state (exec (.byteReadyTx true) (sending 64#8 2#8 134#8)) = some .idle := by decide

/-- `TxArmEmitsHeader`: the positions 0 and 4. -/
theorem witness_header :
    look State.pos (exec (.byteReadyTx true) (sending 0#8 1#8 0#8)) = some 1#8 ∧
    look State.pos (exec (.byteReadyTx true) (sending 0#8 1#8 4#8)) = some 5#8 := by decide

/-- `TxArmEmitsPayload`: the first byte, the last byte of the buffer, and the byte past it, raw and ECC. -/
theorem witness_payload :
    [(64, 1, 5), (64, 1, 68), (64, 1, 69), (64, 4, 132), (64, 4, 133)].map (fun p =>
      look (fun t => (t.pos.toNat, t.freeReads))
        (exec (.byteReadyTx true) (sending (BitVec.ofNat 8 p.1) (BitVec.ofNat 8 p.2.1) (BitVec.ofNat 8 p.2.2)))) =
      [some (6, 0), some (69, 0), some (70, 1), some (133, 0), some (134, 1)] := by decide

/-- `RxArmStoresTypeByte`: any byte is stored. -/
theorem witness_typeByte :
    look (fun t => (t.pos, t.rxA.ptype)) (exec (.byteReadyRx true 0x00FE#16) (receiving 1#8 0#8 1#8)) =
      some (2#8, 0xFE#8) := by decide

/-- `RxArmStoresPayload`: the first byte and the last but one, raw and ECC. -/
theorem witness_rxPayload :
    [look (fun t => t.rxA.payload) (exec (.byteReadyRx true 0x00FE#16) (receiving 64#8 1#8 2#8)),
     look (fun t => t.rxA.payload) (exec (.byteReadyRx true 0x00FE#16) (receiving 64#8 1#8 64#8)),
     look (fun t => t.rxA.payload) (exec (.byteReadyRx true 0x00FF#16) (receiving 64#8 4#8 2#8)),
     look (fun t => t.rxA.payload) (exec (.byteReadyRx true 0x00FF#16) (receiving 64#8 4#8 128#8))] =
      [some [(0, 0xFE#8)], some [(62, 0xFE#8)], some [(0, 0x0F#8)], some [(63, 0x0F#8)]] := by decide

/-- `RxArmCompletesPacket`: the smallest and the largest packet, raw and ECC. -/
theorem witness_rxComplete :
    [(1, 1, 2), (64, 1, 65), (1, 4, 3), (64, 4, 129)].map (fun p =>
      look (fun t => (t.state, t.ready)) (exec (.byteReadyRx true 0x00FF#16)
        (receiving (BitVec.ofNat 8 p.1) (BitVec.ofNat 8 p.2.1) (BitVec.ofNat 8 p.2.2)))) =
      [some (.idle, true), some (.idle, true), some (.idle, true), some (.idle, true)] := by decide

/-- `ToneArmsRepeatByte`: each tone state selects its arm. -/
theorem witness_toneArms :
    [exec (.byteReadyTone0 true) (pending .transmitZero .t1), exec (.byteReadyTone1 true) (pending .transmitOne .t1),
     exec (.byteReadyToneA true) (pending .transmitAlternating .t1)].all goesOn = true := by decide

/-- `OnlyTableEdges`, `FieldWriters`, `OutputHistoryAppendOnly`, `FinishedBufferPreserved`: next states by
edges of the table, and by step T3. -/
theorem witness_edges :
    [exec .init on, exec .reset (sending 64#8 4#8 134#8), exec (.transmit 1#8 1#8 zeros) (pending .transmitOne .t1),
     exec (.byteReadyIdle true 0x0001#16) on, exec (.byteReadyIdle true 0x0000#16) on,
     exec (.byteReadyRx true 0x0001#16) (receiving 64#8 4#8 129#8),
     exec (.byteReadyTx true) (sending 64#8 4#8 134#8), exec .txZero on, exec .txOne on, exec .txAlt on,
     exec (.transmit 1#8 1#8 zeros) (pending .transmittingPacket .t3)].all goesOn = true := by decide

/-- `TransmitEventsEmitFrame`: 135 events for 64 ECC bytes. -/
theorem witness_frame :
    let s := sending 64#8 4#8 0#8
    s.irqEn = true ∧ s.state = .transmittingPacket ∧ s.pos = 0x00#8 ∧ s.tx.payloadSize.toNat ≤ 64 ∧
    (List.replicate 135 0x0000#16).length =
      6 + s.tx.payloadSize.toNat * (if isEcc s.tx.ptype then 2 else 1) + 1 :=
  ⟨rfl, rfl, rfl, by decide, List.length_replicate.trans (by decide)⟩

/-- `ReceiveEventsRebuildPacket`: one byte as two symbols with a flipped bit in each, and one byte raw. -/
theorem witness_rebuild :
    on.irqEn = true ∧ on.state = .idle ∧
    (let air := [0x55#8 ^^^ 0x80#8, 0xAA#8 ^^^ 0x01#8]
     air.length = (airData 2#8 [0xA5#8]).length ∧
     (∀ j, j < air.length → dist (air.getD j 0x00#8) ((airData 2#8 [0xA5#8]).getD j 0x00#8) ≤ 1) ∧
     [0x0001#16, 0x0002#16, 0x00D5#16, 0x00AB#16].map (fun r => r.extractLsb' 0 8) =
       BitVec.ofNat 8 [0xA5#8].length :: 2#8 :: air) ∧
    airData 1#8 [0xA5#8] = [0xA5#8] := by decide

/-- `UnselectedArmRefused` and `RxArmPastPayloadFaults`. -/
theorem witness_stops :
    refusal (exec (.byteReadyTx true) on) = some .armNotSelected ∧
    exec (.byteReadyRx true 0x0001#16) (receiving 64#8 1#8 66#8) = .fault (.writeOutsidePayload .A 64) ∧
    exec (.byteReadyRx true 0x0001#16) (receiving 64#8 4#8 130#8) = .fault (.writeOutsidePayload .A 64) :=
  ⟨rfl, rfl, rfl⟩

end Sys2Proof.Tests
end

