-- ==== Sys2Proof/Proofs/State.lean ====
section
/-! SUPPORT. Proofs/State.lean: the family of 10_state.md. The output history (R22) is treated by one relation:
two runs whose histories differ by what stands before them. `State.withPast p s` puts `p` before the history of `s`,
and every operation of the model commutes with it. -/
namespace Sys2Proof.Machine

/-! ### A state with an earlier history -/

/-- The state whose output history has `p` before it (R22). -/
def State.withPast (p : List OutEvent) (s : State) : State := { s with out := p ++ s.out }

section Past
variable (p : List OutEvent) (s : State)

/-- Every state is one with an empty history, after its own past. -/
theorem State.withPast_of_empty (o : List OutEvent) : State.withPast o { s with out := [] } = { s with out := o } := by
  simp [State.withPast]

@[simp] theorem State.withPast_state : (s.withPast p).state = s.state := rfl
@[simp] theorem State.withPast_pos : (s.withPast p).pos = s.pos := rfl
@[simp] theorem State.withPast_live : (s.withPast p).live = s.live := rfl
@[simp] theorem State.withPast_ready : (s.withPast p).ready = s.ready := rfl
@[simp] theorem State.withPast_irqEn : (s.withPast p).irqEn = s.irqEn := rfl
@[simp] theorem State.withPast_active : (s.withPast p).active = s.active := rfl
@[simp] theorem State.withPast_finished : (s.withPast p).finished = s.finished := rfl
@[simp] theorem State.withPast_fifoUser : (s.withPast p).fifoUser = s.fifoUser := rfl
@[simp] theorem State.withPast_tx : (s.withPast p).tx = s.tx := rfl
@[simp] theorem State.withPast_txStep : (s.withPast p).txStep = s.txStep := rfl
@[simp] theorem State.withPast_packet (k : Buf) : (s.withPast p).packet k = s.packet k := by cases k <;> rfl
@[simp] theorem State.withPast_buf (k : RxBuf) : (s.withPast p).buf k = s.buf k := by cases k <;> rfl
@[simp] theorem State.withPast_memRead (k : Buf) (i : Nat) : (s.withPast p).memRead k i = s.memRead k i := by
  cases k <;> rfl

/-! ### Field updates keep the past -/

@[simp] theorem State.setLive_withPast (b : Bool) : (s.withPast p).setLive b = (s.setLive b).withPast p := rfl
@[simp] theorem State.setReady_withPast (b : Bool) : (s.withPast p).setReady b = (s.setReady b).withPast p := rfl
@[simp] theorem State.setIrqEn_withPast (b : Bool) : (s.withPast p).setIrqEn b = (s.setIrqEn b).withPast p := rfl
@[simp] theorem State.setState_withPast (x : DriverState) :
    (s.withPast p).setState x = (s.setState x).withPast p := rfl
@[simp] theorem State.setPos_withPast (n : Byte) : (s.withPast p).setPos n = (s.setPos n).withPast p := rfl
@[simp] theorem State.setActive_withPast (b : RxBuf) : (s.withPast p).setActive b = (s.setActive b).withPast p := rfl
@[simp] theorem State.setFinished_withPast (b : RxBuf) :
    (s.withPast p).setFinished b = (s.setFinished b).withPast p := rfl
@[simp] theorem State.setFifoUser_withPast (u : Word) :
    (s.withPast p).setFifoUser u = (s.setFifoUser u).withPast p := rfl
@[simp] theorem State.setResult_withPast (r : Result) :
    (s.withPast p).setResult r = (s.setResult r).withPast p := rfl
@[simp] theorem State.setTxStep_withPast (t : TxStep) :
    (s.withPast p).setTxStep t = (s.setTxStep t).withPast p := rfl
@[simp] theorem State.setPacket_withPast (b : Buf) (q : Packet) :
    (s.withPast p).setPacket b q = (s.setPacket b q).withPast p := by cases b <;> rfl
@[simp] theorem State.setSize_withPast (b : Buf) (n : Byte) :
    (s.withPast p).setSize b n = (s.setSize b n).withPast p := by simp [State.setSize]
@[simp] theorem State.setType_withPast (b : Buf) (t : Byte) :
    (s.withPast p).setType b t = (s.setType b t).withPast p := by simp [State.setType]
@[simp] theorem State.fillPayload_withPast (b : Buf) (f : Nat → Byte) :
    (s.withPast p).fillPayload b f = (s.fillPayload b f).withPast p := by simp [State.fillPayload]

/-! ### What is driven comes after the past -/

/-- The one operation that touches the history adds at its end, so a past before it stays before it (R22). -/
@[simp] theorem State.drive_withPast (l : List OutEvent) : (s.withPast p).drive l = (s.drive l).withPast p := by
  simp [State.drive, State.withPast, List.append_assoc]

@[simp] theorem State.xfer_withPast (w : Word) : (s.withPast p).xfer w = (s.xfer w).withPast p :=
  s.drive_withPast p _
@[simp] theorem State.emit_withPast (ws : List Word) : (s.withPast p).emit ws = (s.emit ws).withPast p :=
  s.drive_withPast p _
@[simp] theorem State.txEmit_withPast (b : Byte) : (s.withPast p).txEmit b = (s.txEmit b).withPast p :=
  s.drive_withPast p _
@[simp] theorem State.fifoRead_withPast : (s.withPast p).fifoRead = s.fifoRead.withPast p :=
  s.drive_withPast p _
@[simp] theorem State.eventEntry_withPast : (s.withPast p).eventEntry = s.eventEntry.withPast p := by
  simp [State.eventEntry]
@[simp] theorem State.eventExit_withPast : (s.withPast p).eventExit = s.eventExit.withPast p :=
  s.drive_withPast p _
@[simp] theorem State.spuriousWake_withPast : (s.withPast p).spuriousWake = s.spuriousWake.withPast p := by
  simp [State.spuriousWake]

/-! ### Procedures keep the past -/

@[simp] theorem State.afterRead_withPast (i : Nat) : (s.withPast p).afterRead i = (s.afterRead i).withPast p := by
  unfold State.afterRead
  split <;> rfl

@[simp] theorem State.afterFrameRead_withPast (n : Nat) :
    (s.withPast p).afterFrameRead n = (s.afterFrameRead n).withPast p := by
  unfold State.afterFrameRead
  split <;> simp

/-- The byte of a frame does not depend on the history. -/
@[simp] theorem frameByte_withPast (n : Nat) : frameByte (s.withPast p) n = frameByte s n := by
  match n with
  | 0 | 1 | 2 | 3 | 4 => rfl
  | o + 5 => simp [frameByte, framePayloadByte]

@[simp] theorem State.chipReset_withPast : (s.withPast p).chipReset = s.chipReset.withPast p := by
  simp [State.chipReset]

@[simp] theorem State.enterTone_withPast (x : DriverState) :
    (s.withPast p).enterTone x = (s.enterTone x).withPast p := by
  by_cases h : s.state.isTone = true <;> simp [State.enterTone, h]

@[simp] theorem State.transmitT1_withPast : (s.withPast p).transmitT1 = s.transmitT1.withPast p := by
  by_cases h : s.state.isTone = true <;> simp [State.transmitT1, h]

@[simp] theorem State.transmitT2_withPast : (s.withPast p).transmitT2 = s.transmitT2.withPast p := by
  by_cases h : s.state = .idle <;> simp [State.transmitT2, h]

@[simp] theorem State.transmitT3_withPast (size ptype : Byte) (payload : List Byte) :
    (s.withPast p).transmitT3 size ptype payload = (s.transmitT3 size ptype payload).withPast p := by
  simp [State.transmitT3]

@[simp] theorem State.writeRegister_withPast (w : Word) :
    (s.withPast p).writeRegister w = (s.writeRegister w).withPast p := by
  by_cases h : Config.isFifoCtl w = true <;> simp [State.writeRegister, h]

@[simp] theorem State.writeFrequency_withPast (v : Word) :
    (s.withPast p).writeFrequency v = (s.writeFrequency v).withPast p := by
  by_cases h : freqOk (freqField v) = true <;> simp [State.writeFrequency, h]

@[simp] theorem State.complete_withPast (a : RxBuf) : (s.withPast p).complete a = (s.complete a).withPast p := by
  simp [State.complete]

@[simp] theorem State.countReceived_withPast (a : RxBuf) (total : Nat) :
    (s.withPast p).countReceived a total = (s.countReceived a total).withPast p := by
  simp only [State.countReceived, State.setPos_withPast, State.withPast_pos, State.complete_withPast]
  exact (apply_ite (State.withPast p) _ _ _).symm

end Past

/-! ### Operations that do not read the history -/

/-- An outcome whose next state, if there is one, has the past `p`. -/
def outcomeWithPast (p : List OutEvent) (o : Outcome) : Outcome := andThen o fun t => .next (t.withPast p)

@[simp] theorem outcomeWithPast_next (p : List OutEvent) (t : State) :
    outcomeWithPast p (.next t) = .next (t.withPast p) := rfl
@[simp] theorem outcomeWithPast_fault (p : List OutEvent) (r : Fault) : outcomeWithPast p (.fault r) = .fault r := rfl
@[simp] theorem outcomeWithPast_refused (p : List OutEvent) (r : Refusal) :
    outcomeWithPast p (.refused r) = .refused r := rfl

/-- An operation does not read the history and only appends to it: with any past it answers as without, the past
kept before what it appends (R22). -/
def PastBlind (k : State → Outcome) : Prop :=
  ∀ (p : List OutEvent) (s : State), k (s.withPast p) = outcomeWithPast p (k s)

/-- From the two runs with an empty past and with the past `o`: the same is appended to both. -/
theorem PastBlind.appends {k : State → Outcome} (hk : PastBlind k) {s t : State} (h : k s = .next t) :
    ∃ l : List OutEvent, t.out = s.out ++ l ∧
      ∀ o : List OutEvent, k { s with out := o } = .next { t with out := o ++ l } := by
  have run (o : List OutEvent) : k { s with out := o } = outcomeWithPast o (k { s with out := [] }) := by
    rw [← hk, State.withPast_of_empty]
  have hs : outcomeWithPast s.out (k { s with out := [] }) = .next t := (run s.out).symm.trans h
  obtain ⟨u, hu, ht⟩ := andThen_eq_next.mp hs
  obtain rfl : u.withPast s.out = t := by injection ht
  refine ⟨u.out, rfl, fun o => ?_⟩
  rw [run o, hu]
  rfl

/-! ### Combinators -/

/-- A state function that keeps the past, as an operation. -/
theorem PastBlind.next {f : State → State} (hf : ∀ p s, f (s.withPast p) = (f s).withPast p) :
    PastBlind fun s => .next (f s) := fun p s => by simp [hf]

/-- What goes on after a first part keeps the past through both parts. -/
theorem andThen_outcomeWithPast {k : State → Outcome} (hk : PastBlind k) (p : List OutEvent) (o : Outcome) :
    andThen (outcomeWithPast p o) k = outcomeWithPast p (andThen o k) := by
  cases o with
  | next t => exact hk p t
  | fault r => rfl
  | refused r => rfl

/-- The guard of R171 reads `irqEn` only. -/
theorem PastBlind.initialized {k : State → Outcome} (hk : PastBlind k) : PastBlind fun s => s.initialized k := by
  intro p s
  by_cases h : s.irqEn = true
  · simpa [State.initialized, h] using hk p s
  · simp [State.initialized, h]

/-- The event around an arm (R120) drives the chip-select line and reads `irqEn` and the driver state. -/
theorem PastBlind.byteReady {arm : State → Outcome} (harm : PastBlind arm) (own : DriverState) (attn : Bool) :
    PastBlind fun s => s.byteReady own attn arm := by
  intro p s
  have hexit : PastBlind fun t => .next t.eventExit := .next fun p t => t.eventExit_withPast p
  by_cases hirq : s.irqEn = true
  · cases attn with
    | false => simp [State.byteReady, hirq]
    | true =>
      by_cases hown : s.state = own
      · simp [State.byteReady, hirq, hown, harm p s.eventEntry, andThen_outcomeWithPast hexit]
      · simp [State.byteReady, hirq, hown]
  · simp [State.byteReady, hirq]

/-! ### Payload writes and arms -/

theorem memWrite_pastBlind (b : Buf) (i : Nat) (v : Byte) : PastBlind fun s => s.memWrite b i v := by
  intro p s
  by_cases h : i < capacity <;> simp [State.memWrite, h]

theorem storeEcc_pastBlind (b : Buf) (o : Nat) (rx : Symbol) : PastBlind fun s => s.storeEcc b o rx := by
  intro p s
  simp only [State.storeEcc, State.withPast_memRead]
  exact memWrite_pastBlind b _ _ p s

theorem armIdle_pastBlind (r : Word) : PastBlind (armIdle r) := by
  intro p s
  by_cases h : sizeOk (receivedByte r) = true <;> simp [armIdle, h]

theorem armTx_pastBlind : PastBlind armTx := by
  intro p s
  by_cases h : s.pos.toNat = txTotal s.tx <;> simp [armTx, h]

theorem armRx_pastBlind (r : Word) : PastBlind (armRx r) := by
  intro p s
  have hcount (a : RxBuf) (total : Nat) : PastBlind fun t => .next (t.countReceived a total) :=
    .next fun p t => t.countReceived_withPast p a total
  by_cases hpos : s.pos.toNat = 1
  · simp [armRx, hpos]
  · by_cases hecc : isEcc (s.buf s.active).ptype = true
    · simp [armRx, hpos, hecc, storeEcc_pastBlind _ _ _ p s.fifoRead, andThen_outcomeWithPast (hcount _ _)]
    · simp [armRx, hpos, hecc, memWrite_pastBlind _ _ _ p s.fifoRead, andThen_outcomeWithPast (hcount _ _)]

/-- The body of the three tone arms (R134 to R136). -/
theorem armTone_pastBlind (b : Byte) : PastBlind fun s => .next (s.txEmit b) :=
  .next fun p s => s.txEmit_withPast p b

theorem execTransmit_pastBlind (size ptype : Byte) (payload : List Byte) :
    PastBlind (execTransmit size ptype payload) := by
  refine PastBlind.initialized fun p s => ?_
  by_cases hok : packetOk size ptype = true
  · cases hstep : s.txStep with
    | t1 => simp [hok, hstep]
    | t2 => simp [hok, hstep]
    | t3 => by_cases hst : s.state = .transmittingPacket <;> simp [hok, hstep, hst]
  · simp [hok]

/-- No instruction reads the output history (R22): the operations that only update the state by the rules above,
the framer operations behind the guard of R171, and the arms inside the event. -/
theorem exec_pastBlind (i : Instr) : PastBlind (exec i) := by
  cases i with
  | init => exact .next fun p s => by simp
  | transmit size ptype payload => exact execTransmit_pastBlind size ptype payload
  | receive => exact .initialized (.next fun _ _ => rfl)
  | isIdle => exact .next fun p s => by simp
  | isAlive => exact .next fun p s => by simp
  | setRegister w => exact .initialized (.next fun p s => by simp)
  | setFrequency v => exact .initialized (.next fun p s => by simp)
  | txZero => exact .initialized (.next fun p s => by simp)
  | txOne => exact .initialized (.next fun p s => by simp)
  | txAlt => exact .initialized (.next fun p s => by simp)
  | reset => exact .initialized (.next fun p s => by simp)
  | encNibble v => exact .next fun p s => s.setResult_withPast p _
  | decNibble sym => exact .next fun p s => s.setResult_withPast p _
  | encByte b => exact .next fun p s => s.setResult_withPast p _
  | decByte w => exact .next fun p s => s.setResult_withPast p _
  | reservedOpF => exact fun _ _ => rfl
  | byteReadyIdle attn r => exact (armIdle_pastBlind r).byteReady .idle attn
  | byteReadyTx attn => exact armTx_pastBlind.byteReady .transmittingPacket attn
  | byteReadyRx attn r => exact (armRx_pastBlind r).byteReady .receivingPacket attn
  | byteReadyTone0 attn => exact (armTone_pastBlind toneZero).byteReady .transmitZero attn
  | byteReadyTone1 attn => exact (armTone_pastBlind toneOne).byteReady .transmitOne attn
  | byteReadyToneA attn => exact (armTone_pastBlind toneAlt).byteReady .transmitAlternating attn
  | reservedState6 attn => exact fun _ _ => rfl
  | reservedState7 attn => exact fun _ _ => rfl

/-! ### `INIT` as one equation -/

/-- What `INIT` writes, from any state (41_host_operations.md R88); every other field is unchanged. -/
theorem exec_init (s : State) :
    exec .init s = .next { s with
      state := .idle
      pos := 0x00#8
      live := false
      ready := false
      irqEn := true
      active := .A
      fifoUser := Config.fifoUserDefault
      out := s.out ++ (Config.seqInit Config.fifoUserDefault).map .bus
      rxA := { s.rxA with payloadSize := 0x00#8 }
      rxB := { s.rxB with payloadSize := 0x00#8 }
      result := .nothing } := rfl

/-! ### The statements -/

/-- Settles O54: no instruction reads the history, so the run from an empty history fixes what is appended. -/
theorem outputHistoryAppendOnly : Obligations.OutputHistoryAppendOnly :=
  fun i _ _ h => (exec_pastBlind i).appends h

/-- Settles O12: the power-on values, then the equation of `INIT` at the power-on state. -/
theorem powerOnAndAfterInit : Obligations.PowerOnAndAfterInit := by
  unfold Obligations.PowerOnAndAfterInit
  refine ⟨⟨rfl, rfl, rfl, rfl, rfl, rfl, rfl, rfl⟩, _, exec_init State.reset, ?_⟩
  have hout : State.reset.out = [] := rfl
  simp [hout]

end Sys2Proof.Machine
end

