-- ==== Sys2Proof/Proofs/FecCodec.lean ====
section
/-! SUPPORT. Proofs/FecCodec.lean: the family of 40_fec_codec.md. The argument of R77 and R81 for any code meeting
R74 is metric: the decoder answers a nearest nibble, and by the distance of 3 at most one codeword lies within one
bit of a symbol. The default code meets R74 because it is linear and its non-zero codewords weigh 4 or 8 (R75). -/
namespace Sys2Proof.Machine

open Sys2Proof.Safety

/-! ### The codec operations as equations -/

/-- `ENC_NIBBLE` in every state (R76). -/
theorem exec_encNibble (v : Nibble) (s : State) :
    exec (.encNibble v) s = .next { s with result := .byte (encodeNibble defaultCode v) } := rfl

/-- `ENC_BYTE` in every state (R78, with the pair layout of 30_encoding.md R59). -/
theorem exec_encByte (b : Byte) (s : State) :
    exec (.encByte b) s = .next { s with
      result := .word (encodeNibble defaultCode (b.extractLsb' 4 4) ++
        encodeNibble defaultCode (b.extractLsb' 0 4)) } := rfl

/-! ### Weight and distance (00_scope.md R8) -/

theorem countP_xor_le {α : Type} (p q : α → Bool) (l : List α) :
    (l.countP fun x => p x ^^ q x) ≤ l.countP p + l.countP q := by
  induction l with
  | nil => exact Nat.le_refl 0
  | cons x l ih =>
    simp only [List.countP_cons]
    grind

theorem popcount_xor_le (a b : Byte) : popcount (a ^^^ b) ≤ popcount a + popcount b := by
  simpa [popcount] using countP_xor_le (a.getLsbD ·) (b.getLsbD ·) (List.range 8)

theorem popcount_le_eight (b : Byte) : popcount b ≤ 8 := List.countP_le_length

theorem popcount_shifted_bit (p : Fin 8) : popcount (0x01#8 <<< p.val) = 1 := by
  revert p; decide

@[simp] theorem dist_self (a : Byte) : dist a a = 0 := by
  rw [dist, BitVec.xor_self]; rfl

theorem dist_comm (a b : Byte) : dist a b = dist b a := by
  rw [dist, dist, BitVec.xor_comm]

/-- The error `e` on a symbol moves it by the weight of `e`. -/
theorem dist_xor_self (a e : Byte) : dist (a ^^^ e) a = popcount e := by
  rw [dist, BitVec.xor_comm a e, BitVec.xor_assoc, BitVec.xor_self, BitVec.xor_zero]

theorem dist_triangle (a b c : Byte) : dist a c ≤ dist a b + dist b c := by
  have hsum : a ^^^ c = (a ^^^ b) ^^^ (b ^^^ c) := by
    rw [BitVec.xor_assoc, ← BitVec.xor_assoc b b c, BitVec.xor_self, BitVec.zero_xor]
  rw [dist, hsum]
  exact popcount_xor_le _ _

/-! ### The nearest nibbles of R77 -/

theorem le_foldl_min {k a : Nat} {l : List Nat} : k ≤ l.foldl min a ↔ k ≤ a ∧ ∀ x ∈ l, k ≤ x := by
  induction l generalizing a with
  | nil => simp
  | cons x l ih => simp [ih, and_assoc]

theorem mem_allNibbles (v : Nibble) : v ∈ allNibbles := by
  revert v; decide

theorem le_minDist_iff {k : Nat} {c : Config.Code} {y : Symbol} :
    k ≤ minDist c y ↔ k ≤ 8 ∧ ∀ v, k ≤ dist y (c.enc v) := by
  simp [minDist, le_foldl_min, mem_allNibbles]

theorem minDist_le_dist (c : Config.Code) (y : Symbol) (v : Nibble) : minDist c y ≤ dist y (c.enc v) :=
  (le_minDist_iff.mp (Nat.le_refl _)).2 v

@[simp] theorem mem_near {c : Config.Code} {y : Symbol} {v : Nibble} :
    v ∈ near c y ↔ dist y (c.enc v) = minDist c y := by
  simp [near, mem_allNibbles]

/-- The least distance is the distance of some codeword: otherwise one more would also be a lower bound. -/
theorem near_ne_nil (c : Config.Code) (y : Symbol) : near c y ≠ [] := by
  intro hnil
  have hlt (v : Nibble) : minDist c y < dist y (c.enc v) :=
    Nat.lt_of_le_of_ne (minDist_le_dist c y v) fun h => by
      simpa [hnil] using mem_near.mpr h.symm
  have hlt8 : minDist c y < 8 := Nat.lt_of_lt_of_le (hlt 0#4) (popcount_le_eight _)
  exact Nat.not_succ_le_self _ (le_minDist_iff.mpr ⟨hlt8, hlt⟩)

/-! ### Decoding with a code that meets R74 -/

section AnyCode
variable {c : Config.Code}

/-- Two codewords within one bit of the same symbol would be within two bits of each other (R77). -/
theorem nibble_unique_of_dist_le_one (hc : CodeOk c) {y : Symbol} {v w : Nibble}
    (hv : dist y (c.enc v) ≤ 1) (hw : dist y (c.enc w) ≤ 1) : v = w := by
  by_contra hne
  have hfar : 3 ≤ dist (c.enc v) (c.enc w) := hc.distance v w hne
  have hnear := dist_triangle (c.enc v) y (c.enc w)
  rw [dist_comm (c.enc v) y] at hnear
  omega

/-- The decoder answers a nearest nibble, in both of its branches (R77). -/
theorem decodeNibble_mem_near (hc : CodeOk c) (y : Symbol) : decodeNibble c y ∈ near c y := by
  unfold decodeNibble
  split
  case isTrue =>
    rw [List.headD_eq_head?_getD, List.head?_eq_some_head (near_ne_nil c y)]
    exact List.head_mem _
  case isFalse hm => exact hc.nearest y (by omega)

/-- A symbol within one bit of a codeword decodes to that codeword's nibble (R74 (e)). -/
theorem decodeNibble_eq_of_dist_le_one (hc : CodeOk c) {y : Symbol} {v : Nibble}
    (h : dist y (c.enc v) ≤ 1) : decodeNibble c y = v := by
  have hdec : dist y (c.enc (decodeNibble c y)) = minDist c y := mem_near.mp (decodeNibble_mem_near hc y)
  have hmin : minDist c y ≤ dist y (c.enc v) := minDist_le_dist c y v
  exact nibble_unique_of_dist_le_one hc (by omega) h

/-- R81 (a): no error. -/
theorem decodeNibble_encodeNibble (hc : CodeOk c) (v : Nibble) : decodeNibble c (encodeNibble c v) = v :=
  decodeNibble_eq_of_dist_le_one hc (by simp [encodeNibble])

/-- R81 (b): one flipped bit. -/
theorem decodeNibble_flipped_bit (hc : CodeOk c) (v : Nibble) (p : Fin 8) :
    decodeNibble c (encodeNibble c v ^^^ (0x01#8 <<< p.val)) = v :=
  decodeNibble_eq_of_dist_le_one hc (by rw [encodeNibble, dist_xor_self, popcount_shifted_bit])

/-! ### Bytes as pairs -/

@[simp] theorem highSymbol_pairOfSymbols (hi lo : Symbol) : highSymbol (pairOfSymbols hi lo) = hi :=
  BitVec.extractLsb'_append_eq_left

@[simp] theorem lowSymbol_pairOfSymbols (hi lo : Symbol) : lowSymbol (pairOfSymbols hi lo) = lo :=
  BitVec.extractLsb'_append_eq_right

theorem byteOfNibbles_high_low (b : Byte) : byteOfNibbles (highNibble b) (lowNibble b) = b :=
  (BitVec.extractLsb'_append_extractLsb'_eq_extractLsb' (start₁ := 0) (len₁ := 4) rfl).trans
    BitVec.extractLsb'_eq_self

/-- R81 (c): the two symbols of a byte are decoded apart, each without error. -/
theorem decodeByte_encodeByte (hc : CodeOk c) (b : Byte) : decodeByte c (encodeByte c b) = b := by
  simp [decodeByte, encodeByte, decodeNibble_encodeNibble hc, byteOfNibbles_high_low]

/-- `ENC_BYTE` is injective because `ENC_NIBBLE` is (R78). -/
theorem encodeByte_injective (hc : CodeOk c) {a b : Byte} (h : encodeByte c a = encodeByte c b) : a = b := by
  have hhigh : highNibble a = highNibble b :=
    hc.injective _ _ (by simpa [encodeByte, encodeNibble] using congrArg highSymbol h)
  have hlow : lowNibble a = lowNibble b :=
    hc.injective _ _ (by simpa [encodeByte, encodeNibble] using congrArg lowSymbol h)
  rw [← byteOfNibbles_high_low a, hhigh, hlow, byteOfNibbles_high_low]

end AnyCode

/-! ### The default code (R75) -/

/-- The bit equations of the default code (R76, layout of 30_encoding.md R58). -/
theorem encodeNibble_defaultCode_bits (v : Nibble) :
    let y := encodeNibble defaultCode v
    y.getLsbD 0 = v.getLsbD 0 ∧ y.getLsbD 1 = v.getLsbD 1 ∧
    y.getLsbD 2 = v.getLsbD 2 ∧ y.getLsbD 3 = v.getLsbD 3 ∧
    y.getLsbD 4 = (v.getLsbD 0 ^^ v.getLsbD 1 ^^ v.getLsbD 3) ∧
    y.getLsbD 5 = (v.getLsbD 0 ^^ v.getLsbD 2 ^^ v.getLsbD 3) ∧
    y.getLsbD 6 = (v.getLsbD 1 ^^ v.getLsbD 2 ^^ v.getLsbD 3) ∧
    y.getLsbD 7 = (y.getLsbD 0 ^^ y.getLsbD 1 ^^ y.getLsbD 2 ^^ y.getLsbD 3 ^^
      y.getLsbD 4 ^^ y.getLsbD 5 ^^ y.getLsbD 6) := by
  revert v; decide

/-- Linearity. -/
theorem encodeNibble_defaultCode_xor (v w : Nibble) :
    encodeNibble defaultCode (v ^^^ w) = encodeNibble defaultCode v ^^^ encodeNibble defaultCode w := by
  revert v w; decide

theorem popcount_defaultCode_of_ne_zero {v : Nibble} (h : v ≠ 0#4) :
    popcount (encodeNibble defaultCode v) = 4 ∨ popcount (encodeNibble defaultCode v) = 8 := by
  revert v; decide

theorem popcount_defaultCode_even (v : Nibble) : popcount (encodeNibble defaultCode v) % 2 = 0 := by
  by_cases h : v = 0#4
  · subst h; rfl
  · have := popcount_defaultCode_of_ne_zero h
    omega

/-- By linearity the distance of two codewords is the weight of a third one, which is not zero. -/
theorem dist_defaultCode_of_ne {v w : Nibble} (h : v ≠ w) :
    dist (encodeNibble defaultCode v) (encodeNibble defaultCode w) = 4 ∨
      dist (encodeNibble defaultCode v) (encodeNibble defaultCode w) = 8 := by
  rw [dist, ← encodeNibble_defaultCode_xor]
  exact popcount_defaultCode_of_ne_zero fun h0 => h (BitVec.xor_eq_zero_iff.mp h0)

/-- Every entry of the decode table is within two bits of its symbol (R85; no symbol has `m` above 2, R84). -/
theorem dist_defaultCode_dec_le_two (y : Symbol) : dist y (defaultCode.enc (defaultCode.dec y)) ≤ 2 := by
  revert y; decide

/-- The default code meets R74: the distance is 4 or 8, the data bits stand in bits 3:0, and a symbol two
bits from every codeword has a table entry at that distance. -/
theorem defaultCode_codeOk : CodeOk defaultCode where
  injective v w h := by
    by_contra hne
    have hdist := dist_defaultCode_of_ne hne
    simp [encodeNibble, h] at hdist
  distance v w h := by
    have hdist : dist (defaultCode.enc v) (defaultCode.enc w) = 4 ∨
        dist (defaultCode.enc v) (defaultCode.enc w) = 8 :=
      dist_defaultCode_of_ne h
    omega
  systematic := by
    refine ⟨Fin.castLE (by decide), Fin.castLE_injective _, fun v k => ?_⟩
    obtain ⟨h0, h1, h2, h3, -⟩ := encodeNibble_defaultCode_bits v
    match k with
    | 0 => exact h0
    | 1 => exact h1
    | 2 => exact h2
    | 3 => exact h3
  nearest y hm := by
    have hdec := dist_defaultCode_dec_le_two y
    have hmin := minDist_le_dist defaultCode y (defaultCode.dec y)
    exact mem_near.mpr (by omega)

/-! ### The statements -/

/-- Settles O21: the metric argument for any code meeting R74, which the default code does. -/
theorem codecCorrectsSingleBit : Obligations.CodecCorrectsSingleBit :=
  ⟨defaultCode_codeOk, fun _ hc =>
    ⟨decodeNibble_encodeNibble hc, decodeNibble_flipped_bit hc, decodeByte_encodeByte hc, hc.injective⟩⟩

/-- Settles O13: the equation of `ENC_NIBBLE`, with the bit equations of the default code. -/
theorem encNibbleReturnsSymbol : Obligations.EncNibbleReturnsSymbol :=
  fun v s => ⟨_, exec_encNibble v s, encodeNibble_defaultCode_bits v⟩

/-- Settles O14: the table by evaluation; the distances from linearity and the weights. -/
theorem defaultCodeTable : Obligations.DefaultCodeTable :=
  ⟨by decide, fun v w =>
    ⟨dist_defaultCode_of_ne, popcount_defaultCode_even v, encodeNibble_defaultCode_xor v w⟩⟩

/-- Settles O19: the equation of `ENC_BYTE`, injectivity from that of the code, and the two corner cases. -/
theorem encByteReturnsPair : Obligations.EncByteReturnsPair :=
  ⟨exec_encByte, fun _ _ => encodeByte_injective defaultCode_codeOk, by decide, by decide⟩

end Sys2Proof.Machine
end

