-- ==== Sys2Proof/Proofs/HostOperations.lean ====
section
/-! SUPPORT. Proofs/HostOperations.lean: the family of 41_host_operations.md. The shared procedures as equations of
the state, then one equation per operation, in every state where `INIT` has run when the operation needs it (R171). -/
namespace Sys2Proof.Machine

section Procedures
variable (s : State)

/-! ### The shared procedures -/

/-- `chipReset()` writes the history, the driver state and the counter, from any state (R105). -/
theorem State.chipReset_eq : s.chipReset = { s with
    out := s.out ++ (Config.seqReset s.fifoUser).map .bus
    state := .idle
    pos := 0x00#8 } := rfl

/-- A word for the FIFO-control register is remembered and merged (R99, R72). -/
theorem State.writeRegister_of_fifoCtl {w : Word} (h : Config.isFifoCtl w = true) : s.writeRegister w = { s with
    fifoUser := w &&& Config.fifoUserMask
    out := s.out ++ [.bus (Config.fifoCtlWord (w &&& Config.fifoUserMask))] } := by
  rw [State.writeRegister, if_pos h]; rfl

/-- A word for any other register passes through (R99). -/
theorem State.writeRegister_of_not_fifoCtl {w : Word} (h : Config.isFifoCtl w ≠ true) :
    s.writeRegister w = { s with out := s.out ++ [.bus w] } := by
  rw [State.writeRegister, if_neg h]; rfl

/-- The masked frequency operand, as a number of 12 bits (R73). -/
theorem freqField_eq (v : Word) : freqField v = BitVec.ofNat 12 (v.toNat % 4096) := by
  rw [← freqField_toNat, BitVec.ofNat_toNat, BitVec.setWidth_eq]

/-- A legal frequency goes out as one command word (R100). -/
theorem State.writeFrequency_of_legal {v : Word} (h : 97 ≤ v.toNat % 4096 ∧ v.toNat % 4096 ≤ 3903) :
    s.writeFrequency v =
      { s with out := s.out ++ [.bus (Config.freqCmd (BitVec.ofNat 12 (v.toNat % 4096)))] } := by
  have hok : freqOk (freqField v) = true := by rwa [freqOk_iff, freqField_toNat]
  rw [State.writeFrequency, if_pos hok, freqField_eq]; rfl

/-- An illegal frequency is ignored (R100, 60_exceptions.md R143). -/
theorem State.writeFrequency_of_illegal {v : Word} (h : ¬(97 ≤ v.toNat % 4096 ∧ v.toNat % 4096 ≤ 3903)) :
    s.writeFrequency v = s := by
  have hok : ¬freqOk (freqField v) = true := by rwa [freqOk_iff, freqField_toNat]
  rw [State.writeFrequency, if_neg hok]

end Procedures

/-- The FIFO-control word carries the user bits in the masked positions, whatever the internal bits are (R72). -/
theorem fifoCtlWord_and_mask (u : Word) :
    Config.fifoCtlWord u &&& Config.fifoUserMask = u &&& Config.fifoUserMask := by
  ext k hk
  cases hmask : Config.fifoUserMask[k] <;> simp [Config.fifoCtlWord, hmask]

/-! ### The operations as equations -/

/-- `IS_IDLE` in every state (R89). -/
theorem exec_isIdle (s : State) : exec .isIdle s = .next (s.setResult (.bit (s.state == .idle))) := rfl

/-- `IS_ALIVE` in every state (R90). -/
theorem exec_isAlive (s : State) :
    exec .isAlive s = .next ((s.setLive false).setResult (.bit (s.live || s.state == .idle))) := rfl

section AfterInit
variable {s : State} (hinit : s.irqEn = true)
include hinit

/-- `RECEIVE` after `INIT` (R97). -/
theorem exec_receive : exec .receive s =
    .next ((s.setReady false).setResult (.buffer (if s.ready then some s.finished else none))) := by
  show execReceive s = _
  exact State.initialized_eq_next.mpr ⟨hinit, rfl⟩

/-- `SET_REGISTER` after `INIT` (R99). -/
theorem exec_setRegister (w : Word) : exec (.setRegister w) s = .next ((s.writeRegister w).setResult .nothing) := by
  show execSetRegister w s = _
  exact State.initialized_eq_next.mpr ⟨hinit, rfl⟩

/-- `SET_FREQUENCY` after `INIT` (R100). -/
theorem exec_setFrequency (v : Word) : exec (.setFrequency v) s = .next ((s.writeFrequency v).setResult .nothing) := by
  show execSetFrequency v s = _
  exact State.initialized_eq_next.mpr ⟨hinit, rfl⟩

/-- `RESET` after `INIT` (R105). -/
theorem exec_reset : exec .reset s = .next (s.chipReset.setResult .nothing) := by
  show execReset s = _
  exact State.initialized_eq_next.mpr ⟨hinit, rfl⟩

end AfterInit

/-! ### The statements -/

/-- Settles O24: the equation of `INIT`. -/
theorem initConfiguresDriver : Obligations.InitConfiguresDriver := exec_init

/-- Settles O25: the result of `IS_IDLE`, in `Idle` and outside it. -/
theorem isIdleTestsState : Obligations.IsIdleTestsState := by
  unfold Obligations.IsIdleTestsState
  refine ⟨fun s hidle => ?_, fun s hbusy => ?_⟩
  · rw [exec_isIdle, beq_iff_eq.mpr hidle]; rfl
  · rw [exec_isIdle, beq_eq_false_iff_ne.mpr hbusy]; rfl

/-- Settles O26: a set flag answers 1 and is cleared; with a clear flag the driver state answers, and the clearing
changes nothing. -/
theorem isAliveTruthTable : Obligations.IsAliveTruthTable := by
  unfold Obligations.IsAliveTruthTable
  refine ⟨fun s hlive => ?_, fun s hlive hidle => ?_, fun s hlive hbusy => ?_⟩
  · rw [exec_isAlive, hlive, Bool.true_or]; rfl
  · rw [exec_isAlive, hlive, Bool.false_or, beq_iff_eq.mpr hidle]; rfl
  · rw [exec_isAlive, hlive, Bool.false_or, beq_eq_false_iff_ne.mpr hbusy]; rfl

/-- Settles O34: a set flag hands the buffer over and is cleared; with a clear flag the clearing changes nothing. -/
theorem receiveConsumesReady : Obligations.ReceiveConsumesReady := by
  unfold Obligations.ReceiveConsumesReady
  intro s hinit
  rw [exec_receive hinit]
  by_cases hready : s.ready = true
  · rw [if_pos hready, if_pos hready]; rfl
  · have hclear : s.ready = false := Bool.eq_false_iff.mpr hready
    rw [if_neg hready, if_neg hready, hclear]; rfl

/-- Settles O35: the two kinds of register words; the user bits survive the merge because they lie inside the
mask. -/
theorem setRegisterForwardsOrMerges : Obligations.SetRegisterForwardsOrMerges := by
  unfold Obligations.SetRegisterForwardsOrMerges
  refine ⟨fun s w hinit => ?_, fun w => ?_⟩
  · rw [exec_setRegister hinit]
    by_cases hctl : Config.isFifoCtl w = true
    · rw [s.writeRegister_of_fifoCtl hctl, if_pos hctl]; rfl
    · rw [s.writeRegister_of_not_fifoCtl hctl, if_neg hctl]; rfl
  · rw [fifoCtlWord_and_mask, BitVec.and_assoc, BitVec.and_self]

/-- Settles O36: the masked operand is the value modulo 4096, written when it is legal and ignored otherwise. -/
theorem setFrequencyMasksThenChecks : Obligations.SetFrequencyMasksThenChecks := by
  unfold Obligations.SetFrequencyMasksThenChecks
  intro s v hinit
  rw [exec_setFrequency hinit]
  by_cases hlegal : 97 ≤ v.toNat % 4096 ∧ v.toNat % 4096 ≤ 3903
  · rw [s.writeFrequency_of_legal hlegal, if_pos hlegal]; rfl
  · rw [s.writeFrequency_of_illegal hlegal, if_neg hlegal]; rfl

/-- Settles O38: `RESET` is `chipReset()`, from every driver state. -/
theorem resetForcesIdle : Obligations.ResetForcesIdle := by
  unfold Obligations.ResetForcesIdle
  intro s hinit
  rw [exec_reset hinit, s.chipReset_eq]; rfl

end Sys2Proof.Machine
end

