-- ==== Sys2Proof/Proofs/ByteReadyStep.lean ====
section
/-! SUPPORT. Proofs/ByteReadyStep.lean: the family of 42_byte_ready_step.md. The event around an arm (R120) as rules,
the body each driver state selects (R67), and one equation per arm that goes on. -/
namespace Sys2Proof.Machine

open Sys2Proof.Safety

section Event
variable {s u : State} {own : DriverState} {arm : State → Outcome}

/-! ### The event around an arm -/

/-- A spurious wake as one equation, whatever the driver state and the arm (R121). -/
theorem State.byteReady_spurious (hirq : s.irqEn = true) :
    s.byteReady own false arm = .next { s with out := s.out ++ [.csAssert, .csDeassert] } := by
  refine State.byteReady_eq_next.mpr (.inr (.inl ⟨hirq, rfl, ?_⟩))
  simp [State.spuriousWake, State.drive]

/-- Past the attention check the selected arm runs between entry and exit (R120, R122). -/
theorem State.byteReady_of_arm (hirq : s.irqEn = true) (hstate : s.state = own)
    (harm : arm s.eventEntry = .next u) : s.byteReady own true arm = .next u.eventExit :=
  State.byteReady_eq_next.mpr (.inr (.inr ⟨hirq, rfl, hstate, u, harm, rfl⟩))

section Drive
variable (s)

/-- An event whose arm only drives the bus sets the liveness flag and brackets the transfers (R122, R138). -/
theorem State.emit_in_event (ws : List Word) :
    (s.eventEntry.emit ws).eventExit = { s with live := true, out := s.out ++ bracket ws } := by
  simp [State.eventEntry, State.setLive, State.emit, State.eventExit, State.drive, bracket]

/-- An event whose arm emits one byte and nothing else (R45, R139). -/
theorem State.txEmit_in_event (b : Byte) : (s.eventEntry.txEmit b).eventExit = { s with
    live := true
    out := s.out ++ [.csAssert, .bus (Config.cmdTxWrite ||| b.zeroExtend 16), .csDeassert] } :=
  s.emit_in_event [txWriteWord b]

/-- An event whose arm reads the FIFO and drives nothing else (R44, R138). -/
theorem State.fifoRead_in_event : s.eventEntry.fifoRead.eventExit = { s with
    live := true
    out := s.out ++ [.csAssert, .bus Config.cmdRxRead, .csDeassert] } :=
  s.emit_in_event [Config.cmdRxRead]

end Drive

/-- The whole step of an arm that emits one byte and nothing else (R134 to R136). -/
theorem State.byteReady_txEmit (hirq : s.irqEn = true) (hstate : s.state = own) (b : Byte) :
    s.byteReady own true (fun s => .next (s.txEmit b)) = .next { s with
      live := true
      out := s.out ++ [.csAssert, .bus (Config.cmdTxWrite ||| b.zeroExtend 16), .csDeassert] } := by
  rw [State.byteReady_of_arm (arm := fun s => .next (s.txEmit b)) hirq hstate rfl, State.txEmit_in_event]

end Event

/-! ### The arm a driver state selects -/

/-- The body of the arm that a driver state selects (30_encoding.md R67). -/
def eventArm (r : Word) : DriverState → State → Outcome
  | .idle => armIdle r
  | .transmittingPacket => armTx
  | .receivingPacket => armRx r
  | .transmitZero => fun s => .next (s.txEmit toneZero)
  | .transmitOne => fun s => .next (s.txEmit toneOne)
  | .transmitAlternating => fun s => .next (s.txEmit toneAlt)

/-- The instruction of an event is the byte-ready step around the arm of its driver state (R120). -/
theorem exec_eventInstr (x : DriverState) (attn : Bool) (r : Word) (s : State) :
    exec (eventInstr x attn r) s = s.byteReady x attn (eventArm r x) := by
  cases x <;> rfl

theorem exec_byteReadyIdle (attn : Bool) (r : Word) (s : State) :
    exec (.byteReadyIdle attn r) s = s.byteReady .idle attn (armIdle r) := rfl

theorem exec_byteReadyTx (attn : Bool) (s : State) :
    exec (.byteReadyTx attn) s = s.byteReady .transmittingPacket attn armTx := rfl

/-! ### The `IDLE` arm -/

section Buffers
variable (s : State) (b : Buf)

/-- A size stored and a payload filled are one packet replaced. -/
theorem State.fillPayload_setSize (n : Byte) (f : Nat → Byte) :
    (s.setSize b n).fillPayload b f =
      s.setPacket b { s.packet b with payloadSize := n, payload := Memory.fill (s.packet b).payload f } := by
  simp [State.setSize, State.fillPayload]

theorem State.setPos_setPacket (p : Packet) (n : Byte) : (s.setPacket b p).setPos n = (s.setPos n).setPacket b p := by
  cases b <;> rfl

theorem State.eventExit_setPos (n : Byte) : (s.setPos n).eventExit = s.eventExit.setPos n := rfl

theorem State.eventExit_setState (x : DriverState) : (s.setState x).eventExit = s.eventExit.setState x := rfl

theorem State.eventExit_setPacket (p : Packet) : (s.setPacket b p).eventExit = s.eventExit.setPacket b p := by
  cases b <;> rfl

end Buffers

/-- A good size byte: the packet of the active buffer is replaced and the counter set (R123). -/
theorem armIdle_of_sizeOk {r : Word} (h : sizeOk (receivedByte r) = true) (s : State) :
    armIdle r s = .next (((s.fifoRead.setState .receivingPacket).setPos 0x01#8).setPacket s.active.toBuf
      { s.buf s.active with
        payloadSize := receivedByte r
        payload := Memory.fill (s.buf s.active).payload fun _ => 0x00#8 }) := by
  rcases armIdle_eq r s with ⟨_, harm⟩ | ⟨hbad, _⟩
  · rw [harm, State.fillPayload_setSize, State.setPos_setPacket, State.setState_packet, State.fifoRead_packet]
    rfl
  · exact absurd h (by simp [hbad])

/-- A bad size byte: the counter cleared and the chip reset (R142). -/
theorem armIdle_of_not_sizeOk {r : Word} (h : ¬sizeOk (receivedByte r) = true) (s : State) :
    armIdle r s =
      .next (((s.emit (Config.cmdRxRead :: Config.seqReset s.fifoUser)).setState .idle).setPos 0x00#8) := by
  rcases armIdle_eq r s with ⟨hok, _⟩ | ⟨_, harm⟩
  · exact absurd hok h
  · rw [harm, State.chipReset_eq]
    simp [State.setPos, State.setState, State.emit, State.drive]

/-! ### The `TX` arm in the header -/

/-- The first five bytes of a frame (R125). -/
theorem frameByte_header (s : State) {n : Nat} (h : n ≤ 4) :
    frameByte s n = [preamble, sync0, sync1, s.tx.payloadSize, s.tx.ptype].getD n 0x00#8 := by
  match n, h with
  | 0, _ | 1, _ | 2, _ | 3, _ | 4, _ => rfl

/-- No header position is the total, which is at least 6, and the header reads no payload (R124, R125). -/
theorem armTx_header {s : State} (h : s.pos.toNat ≤ 4) :
    armTx s = .next ((s.txEmit
      ([preamble, sync0, sync1, s.tx.payloadSize, s.tx.ptype].getD s.pos.toNat 0x00#8)).setPos (s.pos + 1#8)) := by
  rcases armTx_eq s with ⟨htotal, _⟩ | ⟨_, harm⟩
  · rw [txTotal_eq] at htotal
    omega
  · have hread (t : State) : t.afterFrameRead s.pos.toNat = t := if_pos (by omega)
    rw [harm, hread, frameByte_header s h]

/-! ### The `RX` arm -/

/-- The payload index the `RX` arm writes (R130, R131). -/
def rxIndex (s : State) : Nat :=
  if isEcc (s.buf s.active).ptype then (s.pos.toNat - 2) / 2 else s.pos.toNat - 2

/-- The counter at 1: the type byte is stored (R128). -/
theorem armRx_typeByte {s : State} (r : Word) (h : s.pos.toNat = 1) :
    armRx r s = .next ((s.fifoRead.setType s.active.toBuf (receivedByte r)).setPos 0x02#8) := by
  simp [armRx, h]

/-- The byte the `RX` arm writes at `rxIndex`: the byte received, or the byte in the buffer with the nibble of the
received symbol in its low or high half (R130, R131). -/
def rxStored (r : Word) (s : State) : Byte :=
  let v := decodeNibble defaultCode (receivedByte r)
  if isEcc (s.buf s.active).ptype then
    Memory.read (s.buf s.active).payload (rxIndex s) |||
      if (s.pos.toNat - 2) % 2 = 0 then byteOfNibbles 0x0#4 v else byteOfNibbles v 0x0#4
  else receivedByte r

/-- Any other counter whose index lies inside the payload: one byte is stored there and counted (R130 to R132). -/
theorem armRx_payloadByte {s : State} (r : Word) (hpos : s.pos.toNat ≠ 1) (hindex : rxIndex s < 64) :
    armRx r s = .next ((s.fifoRead.setPacket s.active.toBuf
      { s.buf s.active with
        payload := Memory.write (s.buf s.active).payload (rxIndex s) (rxStored r s) }).countReceived
          s.active (rxTotal (s.buf s.active))) := by
  have hread : s.fifoRead.memRead s.active.toBuf (rxIndex s) = Memory.read (s.buf s.active).payload (rxIndex s) :=
    State.memRead_inside _ _ hindex
  have hwrite : s.fifoRead.memWrite s.active.toBuf (rxIndex s) (rxStored r s) = .next
      (s.fifoRead.setPacket s.active.toBuf
        { s.buf s.active with payload := Memory.write (s.buf s.active).payload (rxIndex s) (rxStored r s) }) :=
    State.memWrite_eq_next.mpr ⟨hindex, rfl⟩
  by_cases hecc : isEcc (s.buf s.active).ptype = true
  · have hi : (s.pos.toNat - 2) / 2 = rxIndex s := (if_pos hecc).symm
    have hstore : s.fifoRead.storeEcc s.active.toBuf (s.pos.toNat - 2) (receivedByte r) =
        s.fifoRead.memWrite s.active.toBuf (rxIndex s) (rxStored r s) := by
      rw [rxStored, if_pos hecc]
      simp only [State.storeEcc, hi, hread]
    simp [armRx, hpos, hecc, rxOverhead, hstore, hwrite]
  · have hi : s.pos.toNat - 2 = rxIndex s := (if_neg hecc).symm
    have hv : rxStored r s = receivedByte r := if_neg hecc
    rw [hv] at hwrite ⊢
    simp [armRx, hpos, hecc, rxOverhead, hi, hwrite]

@[simp] theorem rxIndex_eventEntry (s : State) : rxIndex s.eventEntry = rxIndex s := by simp [rxIndex]

/-- Under the invariant the index of a payload byte is below the packet's size, hence inside the payload
(10_state.md R26 (b)). -/
theorem rxIndex_lt {s : State} (hinv : DriverInv s) (hstate : s.state = .receivingPacket) (hpos : s.pos.toNat ≠ 1) :
    rxIndex s < 64 := by
  obtain ⟨_, hsize, hone | ⟨_, hlt⟩⟩ := hinv.receiving hstate
  · exact absurd hone hpos
  · rw [rxTotal_eq, multiplier] at hlt
    by_cases hecc : isEcc (s.buf s.active).ptype = true
    · rw [if_pos hecc] at hlt
      rw [rxIndex, if_pos hecc]
      omega
    · rw [if_neg hecc] at hlt
      rw [rxIndex, if_neg hecc]
      omega

/-! ### Completion and the liveness flag -/

@[simp] theorem State.afterFrameRead_live (s : State) (n : Nat) : (s.afterFrameRead n).live = s.live := by
  rcases s.afterFrameRead_cases n with h | h <;> rw [h]

@[simp] theorem State.countReceived_live (s : State) (a : RxBuf) (total : Nat) :
    (s.countReceived a total).live = s.live := by
  by_cases h : (s.pos + 1#8).toNat = total
  · rw [State.countReceived, State.setPos_pos, if_pos h]
    simp [State.complete, State.setSize]
  · rw [State.countReceived, State.setPos_pos, if_neg h]
    rfl

/-- Every arm goes on and leaves the liveness flag alone. Only the `RX` arm can fault, and it does not when its index
lies inside the payload. -/
theorem eventArm_goesOn (r : Word) (x : DriverState) (s : State)
    (hrx : x = .receivingPacket → s.pos.toNat ≠ 1 → rxIndex s < 64) :
    ∃ u, eventArm r x s = .next u ∧ u.live = s.live := by
  cases x with
  | idle =>
    by_cases hsize : sizeOk (receivedByte r) = true
    · exact ⟨_, armIdle_of_sizeOk hsize s, by simp⟩
    · exact ⟨_, armIdle_of_not_sizeOk hsize s, rfl⟩
  | transmittingPacket =>
    rcases armTx_eq s with ⟨_, harm⟩ | ⟨_, harm⟩
    · exact ⟨_, harm, rfl⟩
    · exact ⟨_, harm, by simp⟩
  | receivingPacket =>
    by_cases hpos : s.pos.toNat = 1
    · exact ⟨_, armRx_typeByte r hpos, by simp [State.setType]⟩
    · exact ⟨_, armRx_payloadByte r hpos (hrx rfl hpos), by simp⟩
  | transmitZero => exact ⟨_, rfl, rfl⟩
  | transmitOne => exact ⟨_, rfl, rfl⟩
  | transmitAlternating => exact ⟨_, rfl, rfl⟩

/-! ### The statements -/

/-- Settles O42: the flag is set at the entry, no arm clears it, and under the invariant every arm goes on. -/
theorem eventSetsLiveness : Obligations.EventSetsLiveness := by
  unfold Obligations.EventSetsLiveness
  intro s r hinv hirq
  have hrx (hstate : s.state = .receivingPacket) (hpos : s.eventEntry.pos.toNat ≠ 1) : rxIndex s.eventEntry < 64 := by
    rw [rxIndex_eventEntry]
    exact rxIndex_lt hinv hstate hpos
  obtain ⟨u, harm, hlive⟩ := eventArm_goesOn r s.state s.eventEntry hrx
  refine ⟨u.eventExit, ?_, hlive⟩
  rw [exec_eventInstr, State.byteReady_of_arm hirq rfl harm]

/-- Settles O44: the two branches of the arm; the filled payload reads 0 at each of its 64 indexes. -/
theorem idleArmTakesSizeByte : Obligations.IdleArmTakesSizeByte := by
  unfold Obligations.IdleArmTakesSizeByte
  intro s r hirq hidle
  rw [exec_byteReadyIdle, ← receivedByte_eq]
  by_cases hsize : sizeOk (receivedByte r) = true
  · rw [if_pos ((sizeOk_iff _).mp hsize), State.byteReady_of_arm hirq hidle (armIdle_of_sizeOk hsize _)]
    refine ⟨_, ?_, Memory.read_fill (s.buf s.active).payload fun _ => 0x00#8⟩
    rw [State.eventExit_setPacket, State.eventExit_setPos, State.eventExit_setState, State.fifoRead_in_event,
      State.eventEntry_buf]
    rfl
  · rw [if_neg (mt (sizeOk_iff _).mpr hsize), State.byteReady_of_arm hirq hidle (armIdle_of_not_sizeOk hsize _)]
    rw [State.eventExit_setPos, State.eventExit_setState, State.emit_in_event]
    simp [State.setPos, State.setState, bracket]

/-- Settles O40: a spurious wake does not look at the driver state. -/
theorem spuriousWakeOnlyPulsesSelect : Obligations.SpuriousWakeOnlyPulsesSelect := by
  unfold Obligations.SpuriousWakeOnlyPulsesSelect
  intro s x r hirq
  rw [exec_eventInstr, State.byteReady_spurious hirq]

/-- Settles O46: the header byte is the event's only transfer. -/
theorem txArmEmitsHeader : Obligations.TxArmEmitsHeader := by
  unfold Obligations.TxArmEmitsHeader
  intro s hirq hstate hpos
  rw [exec_byteReadyTx, State.byteReady_of_arm hirq hstate (armTx_header hpos), State.eventExit_setPos,
    State.txEmit_in_event]
  rfl

/-- Settles O51: the byte of each tone state is its event's only transfer. -/
theorem toneArmsRepeatByte : Obligations.ToneArmsRepeatByte := by
  unfold Obligations.ToneArmsRepeatByte
  rintro s i b hirq (⟨hstate, rfl, rfl⟩ | ⟨hstate, rfl, rfl⟩ | ⟨hstate, rfl, rfl⟩)
  · exact State.byteReady_txEmit hirq hstate toneZero
  · exact State.byteReady_txEmit hirq hstate toneOne
  · exact State.byteReady_txEmit hirq hstate toneAlt

end Sys2Proof.Machine
end

/-! SUPPORT. The statements not settled by the families before: the decoder and the default code's tables; the host
operations, the events and the step as equations; one inversion of `exec` (`Effect`, with `Served` for an event), from
which the invariants, the transition table and the writers follow; the runs of events that send and receive a packet. -/

/-! ## The decoder: reading what the encoder writes -/

namespace Sys2Proof

/-! ### The operand readers -/

/-- An operand of 8 bits is read from exactly its byte. -/
theorem readByteOperand_eq_ok {build : Byte → Instr} {bytes rest : List Byte} {i : Instr} :
    readByteOperand build bytes = .ok (i, rest) ↔ ∃ b, i = build b ∧ bytes = b :: rest := by
  cases bytes with
  | nil => simp [readByteOperand]
  | cons b bytes => simp [readByteOperand, eq_comm]

/-- A word is its two bytes, the high one above the low one (20_memory.md R42). -/
theorem highByteOf_append_lowByteOf (w : Word) : highByteOf w ++ lowByteOf w = w :=
  Machine.wordOfLink_linkBytes w

theorem wordBytes_append (hi lo : Byte) : wordBytes (hi ++ lo) = [lo, hi] := by
  rw [wordBytes, lowByteOf, highByteOf, BitVec.extractLsb'_append_eq_right, BitVec.extractLsb'_append_eq_left]

/-- An operand of 16 bits is read from exactly its two bytes. -/
theorem readWordOperand_eq_ok {build : Word → Instr} {bytes rest : List Byte} {i : Instr} :
    readWordOperand build bytes = .ok (i, rest) ↔ ∃ w, i = build w ∧ bytes = wordBytes w ++ rest := by
  constructor
  · intro h
    match bytes, h with
    | lo :: hi :: bytes, h =>
      obtain ⟨rfl, rfl⟩ : build (hi ++ lo) = i ∧ bytes = rest := by simpa [readWordOperand] using h
      exact ⟨hi ++ lo, rfl, by rw [wordBytes_append]; rfl⟩
  · rintro ⟨w, rfl, rfl⟩
    simp [readWordOperand, wordBytes, highByteOf_append_lowByteOf]

/-- A byte whose high half is zero is its low half, extended. -/
theorem zero_append_nibble {b : Byte} (h : b.extractLsb' 4 4 = 0#4) : 0x0#4 ++ b.extractLsb' 0 4 = b := by
  rw [← h]
  exact Machine.byteOfNibbles_high_low b

/-- An operand of 4 bits is read from exactly the byte whose low half it is and whose high half is zero (R76). -/
theorem readNibbleOperand_eq_ok {build : Nibble → Instr} {bytes rest : List Byte} {i : Instr} :
    readNibbleOperand build bytes = .ok (i, rest) ↔ ∃ v, i = build v ∧ bytes = (0x0#4 ++ v) :: rest := by
  constructor
  · intro h
    match bytes, h with
    | b :: bytes, h =>
      by_cases hb : b.extractLsb' 4 4 = 0#4
      · rw [readNibbleOperand, if_pos hb] at h
        obtain ⟨rfl, rfl⟩ : build (b.extractLsb' 0 4) = i ∧ bytes = rest := by simpa using h
        exact ⟨_, rfl, by rw [zero_append_nibble hb]⟩
      · rw [readNibbleOperand, if_neg hb] at h
        cases h
  · rintro ⟨v, rfl, rfl⟩
    rw [readNibbleOperand, BitVec.extractLsb'_append_eq_left, BitVec.extractLsb'_append_eq_right, if_pos rfl]

/-- A Packet is read from exactly its size, its type and 64 payload bytes (20_memory.md R38). -/
theorem readPacketOperand_eq_ok {build : Byte → Byte → List Byte → Instr} {bytes rest : List Byte} {i : Instr} :
    readPacketOperand build bytes = .ok (i, rest) ↔
      ∃ size ptype payload, payload.length = 64 ∧ i = build size ptype payload ∧
        bytes = size :: ptype :: payload ++ rest := by
  constructor
  · intro h
    match bytes, h with
    | size :: ptype :: bytes, h =>
      by_cases hlen : 64 ≤ bytes.length
      · rw [readPacketOperand, if_pos hlen] at h
        obtain ⟨rfl, rfl⟩ : build size ptype (bytes.take 64) = i ∧ bytes.drop 64 = rest := by simpa using h
        exact ⟨size, ptype, bytes.take 64, by simpa using hlen, rfl, by simp⟩
      · rw [readPacketOperand, if_neg hlen] at h
        cases h
  · rintro ⟨size, ptype, payload, hlen, rfl, rfl⟩
    simp [readPacketOperand, ← hlen]

/-! ### Both directions -/

/-- Every well-formed instruction is read back from its encoding: an operation without operands by evaluation, the
others by the rule of their operand, and an event for both values of `attn`. -/
theorem decode_encode {i : Instr} (h : i.wellFormed = true) (rest : List Byte) :
    decode i.format (encode i ++ rest) = .ok (i, rest) := by
  cases i with
  | transmit size ptype payload =>
    exact readPacketOperand_eq_ok.mpr ⟨size, ptype, payload, beq_iff_eq.mp h, rfl, rfl⟩
  | setRegister w => exact readWordOperand_eq_ok.mpr ⟨w, rfl, rfl⟩
  | setFrequency v => exact readWordOperand_eq_ok.mpr ⟨v, rfl, rfl⟩
  | encNibble v => exact readNibbleOperand_eq_ok.mpr ⟨v, rfl, rfl⟩
  | decNibble s => exact readByteOperand_eq_ok.mpr ⟨s, rfl, rfl⟩
  | encByte b => exact readByteOperand_eq_ok.mpr ⟨b, rfl, rfl⟩
  | decByte p => exact readWordOperand_eq_ok.mpr ⟨p, rfl, rfl⟩
  | byteReadyIdle attn r => cases attn <;> exact readWordOperand_eq_ok.mpr ⟨r, rfl, rfl⟩
  | byteReadyRx attn r => cases attn <;> exact readWordOperand_eq_ok.mpr ⟨r, rfl, rfl⟩
  | byteReadyTx attn | byteReadyTone0 attn | byteReadyTone1 attn | byteReadyToneA attn | reservedState6 attn
  | reservedState7 attn => cases attn <;> rfl
  | init | receive | isIdle | isAlive | txZero | txOne | txAlt | reset | reservedOpF => rfl

/-- The bytes read as an operation are the encoding of the operation read (R66), one select after the other. -/
theorem decodeOperation_sound {op : Nibble} {bytes rest : List Byte} {i : Instr}
    (h : decodeOperation op bytes = .ok (i, rest)) :
    i.wellFormed = true ∧ i.format = .op ∧ (0x0#4 ++ op) :: bytes = encode i ++ rest := by
  match op, h with
  | 0x0#4, h | 0x2#4, h | 0x3#4, h | 0x4#4, h | 0x7#4, h | 0x8#4, h | 0x9#4, h | 0xA#4, h | 0xF#4, h =>
    cases h
    exact ⟨rfl, rfl, rfl⟩
  | 0x1#4, h =>
    obtain ⟨size, ptype, payload, hlen, rfl, rfl⟩ := readPacketOperand_eq_ok.mp h
    exact ⟨beq_iff_eq.mpr hlen, rfl, rfl⟩
  | 0x5#4, h | 0x6#4, h | 0xE#4, h =>
    obtain ⟨w, rfl, rfl⟩ := readWordOperand_eq_ok.mp h
    exact ⟨rfl, rfl, rfl⟩
  | 0xB#4, h =>
    obtain ⟨v, rfl, rfl⟩ := readNibbleOperand_eq_ok.mp h
    exact ⟨rfl, rfl, rfl⟩
  | 0xC#4, h | 0xD#4, h =>
    obtain ⟨b, rfl, rfl⟩ := readByteOperand_eq_ok.mp h
    exact ⟨rfl, rfl, rfl⟩
  | .ofFin ⟨n + 16, hn⟩, _ => omega

/-- The bytes read as an event are the encoding of the event read (R67), one state code after the other. -/
theorem decodeArm_sound {code : BitVec 3} {attn : Bool} {bytes rest : List Byte} {i : Instr}
    (h : decodeArm code attn bytes = .ok (i, rest)) :
    i.wellFormed = true ∧ i.format = .event ∧ eventSelector code attn :: bytes = encode i ++ rest := by
  match code, h with
  | 1#3, h | 3#3, h | 4#3, h | 5#3, h | 6#3, h | 7#3, h =>
    cases h
    exact ⟨rfl, rfl, rfl⟩
  | 0#3, h | 2#3, h =>
    obtain ⟨r, rfl, rfl⟩ := readWordOperand_eq_ok.mp h
    exact ⟨rfl, rfl, rfl⟩

/-- A byte whose high half is zero is an event selector of its low three bits and bit 3 (R67). -/
theorem eventSelector_of_byte {b : Byte} (h : b.extractLsb' 4 4 = 0#4) :
    eventSelector (b.extractLsb' 0 3) (b.getLsbD 3) = b := by
  revert b; decide

/-- Only encodings of well-formed instructions decode. -/
theorem decode_sound {fmt : Format} {bytes rest : List Byte} {i : Instr} (h : decode fmt bytes = .ok (i, rest)) :
    i.wellFormed = true ∧ i.format = fmt ∧ bytes = encode i ++ rest := by
  match bytes, h with
  | b :: bytes, h =>
    by_cases hb : b.extractLsb' 4 4 = 0#4
    · cases fmt with
      | op =>
        rw [decode, if_pos hb] at h
        simpa only [zero_append_nibble hb] using decodeOperation_sound h
      | event =>
        rw [decode, if_pos hb] at h
        simpa only [eventSelector_of_byte hb] using decodeArm_sound h
    · rw [decode.eq_def] at h
      simp [hb] at h

/-! ### The statements -/

/-- Settles O1: the round trip, one constructor after the other. -/
theorem decodeOfEncodeGivesInstr : Obligations.DecodeOfEncodeGivesInstr :=
  fun _ rest h => decode_encode h rest

/-- Settles O2: the converse, one selector after the other. -/
theorem decodedBytesAreTheEncoding : Obligations.DecodedBytesAreTheEncoding :=
  fun _ _ _ _ h => decode_sound h

/-- Settles O3: each word is the encoding of its operation. -/
theorem sampleWordsDecode : Obligations.SampleWordsDecode :=
  ⟨decode_encode (i := .init) rfl [], decode_encode (i := .setRegister 0x1234#16) rfl [],
    decode_encode (i := .encNibble 0x5#4) rfl [], decode_encode (i := .reservedOpF) rfl [],
    decode_encode (i := .byteReadyIdle true 0x0003#16) rfl [], decode_encode (i := .byteReadyToneA false) rfl []⟩

end Sys2Proof

/-! ## The codec: what the default tables decide, and the metric argument for the rest -/

namespace Sys2Proof.Machine

open Sys2Proof.Safety

/-! ### The default decode table -/

/-- Every entry of the decode table is a nearest nibble: it is at most two bits away, and another codeword is at least
two bits from any symbol that close to it, three when it is within one bit (R77). -/
theorem dist_defaultCode_dec_le (y : Symbol) (w : Nibble) :
    dist y (defaultCode.enc (defaultCode.dec y)) ≤ dist y (defaultCode.enc w) := by
  by_cases hw : defaultCode.dec y = w
  · rw [hw]
  · have hfar : dist (defaultCode.enc (defaultCode.dec y)) (defaultCode.enc w) = 4 ∨
        dist (defaultCode.enc (defaultCode.dec y)) (defaultCode.enc w) = 8 := dist_defaultCode_of_ne hw
    have htri := dist_triangle (defaultCode.enc (defaultCode.dec y)) y (defaultCode.enc w)
    rw [dist_comm (defaultCode.enc (defaultCode.dec y)) y] at htri
    have hnear := dist_defaultCode_dec_le_two y
    omega

/-- Two flipped bits decode to no larger nibble than the one encoded: the table takes the smallest (R85). -/
theorem defaultCode_dec_two_flips : ∀ e : Byte, popcount e = 2 →
    ∀ w : Nibble, (defaultCode.dec (defaultCode.enc w ^^^ e)).toNat ≤ w.toNat := by
  decide

/-- No nibble as near as the table's entry is smaller (R85): within one bit there is no other, at two bits by the
table. -/
theorem defaultCode_dec_le_of_nearest {y : Symbol} {w : Nibble}
    (h : dist y (defaultCode.enc w) = dist y (defaultCode.enc (defaultCode.dec y))) :
    (defaultCode.dec y).toNat ≤ w.toNat := by
  by_cases hone : dist y (defaultCode.enc w) ≤ 1
  · rw [nibble_unique_of_dist_le_one defaultCode_codeOk (h.symm.trans_le hone) hone]
  · have hle := dist_defaultCode_dec_le_two y
    have htwo : popcount (y ^^^ defaultCode.enc w) = 2 := by
      rw [dist] at hone h
      omega
    have hy : defaultCode.enc w ^^^ (y ^^^ defaultCode.enc w) = y := by
      rw [BitVec.xor_comm y, ← BitVec.xor_assoc, BitVec.xor_self, BitVec.zero_xor]
    simpa only [hy] using defaultCode_dec_two_flips _ htwo w

/-- The least distance is that of the table's entry. -/
theorem minDist_defaultCode (y : Symbol) : minDist defaultCode y = dist y (defaultCode.enc (defaultCode.dec y)) := by
  refine Nat.le_antisymm (minDist_le_dist _ _ _) (le_minDist_iff.mpr ⟨popcount_le_eight _, dist_defaultCode_dec_le y⟩)

theorem defaultCode_dec_mem_near (y : Symbol) : defaultCode.dec y ∈ near defaultCode y :=
  mem_near.mpr (minDist_defaultCode y).symm

/-- The decoder answers the table's entry for every symbol: near a codeword because there is no other nibble, far from
all by definition (R77, R85). -/
theorem decodeNibble_defaultCode (y : Symbol) : decodeNibble defaultCode y = defaultCode.dec y := by
  by_cases hm : minDist defaultCode y ≤ 1
  · exact decodeNibble_eq_of_dist_le_one defaultCode_codeOk (by rwa [← minDist_defaultCode])
  · rw [decodeNibble, if_neg hm]

theorem minDist_defaultCode_le_two (y : Symbol) : minDist defaultCode y ≤ 2 := by
  rw [minDist_defaultCode]
  exact dist_defaultCode_dec_le_two y

/-! ### Nearest nibbles of any code -/

/-- Two symbols at distance 0 are the same. -/
theorem eq_of_dist_eq_zero {a b : Byte} (h : dist a b = 0) : a = b := by
  have hzero (x : Byte) : popcount x = 0 → x = 0#8 := by revert x; decide
  exact BitVec.xor_eq_zero_iff.mp (hzero _ h)

/-- A symbol one bit from a codeword has one nearest nibble (R77). -/
theorem near_length_of_minDist_eq_one {c : Config.Code} (hc : CodeOk c) {y : Symbol} (h : minDist c y = 1) :
    (near c y).length = 1 := by
  have hnodup : (near c y).Nodup := List.Nodup.filter _ (by decide)
  have hsub : near c y ⊆ [decodeNibble c y] := fun v hv =>
    List.mem_singleton.mpr (decodeNibble_eq_of_dist_le_one hc (by rw [mem_near.mp hv, h])).symm
  have hle : (near c y).length ≤ 1 := (List.subperm_of_subset hnodup hsub).length_le
  have hpos : 0 < (near c y).length := List.length_pos_iff.mpr (near_ne_nil c y)
  omega

/-- With a code meeting R74, `DEC_NIBBLE` is at the least distance, alone there when it is at most 1, and the table's
entry otherwise (R77). -/
theorem decodeNibble_nearest {c : Config.Code} (hc : CodeOk c) (y : Symbol) :
    (∀ w, dist y (c.enc (decodeNibble c y)) ≤ dist y (c.enc w)) ∧
    (dist y (c.enc (decodeNibble c y)) ≤ 1 →
      ∀ w, dist y (c.enc w) = dist y (c.enc (decodeNibble c y)) → w = decodeNibble c y) ∧
    (2 ≤ dist y (c.enc (decodeNibble c y)) → decodeNibble c y = c.dec y) := by
  have hmin : dist y (c.enc (decodeNibble c y)) = minDist c y := mem_near.mp (decodeNibble_mem_near hc y)
  refine ⟨fun w => ?_, fun hone w hw => ?_, fun htwo => ?_⟩
  · rw [hmin]
    exact minDist_le_dist c y w
  · exact nibble_unique_of_dist_le_one hc (hw.trans_le hone) hone
  · rw [hmin] at htwo
    rw [decodeNibble, if_neg (by omega)]

/-! ### The syndrome form -/

/-- The data bits of a symbol with odd parity, after the correction that its syndrome names (R82). -/
def correctedNibble (y : Symbol) : Nibble :=
  y.extractLsb' 0 4 ^^^
    (if syndrome y = 0b011#3 then 0b0001#4
     else if syndrome y = 0b101#3 then 0b0010#4
     else if syndrome y = 0b110#3 then 0b0100#4
     else if syndrome y = 0b111#3 then 0b1000#4
     else 0b0000#4)

/-- Odd parity: one bit is flipped, a data bit when the syndrome names one. -/
theorem dist_correctedNibble (y : Symbol) (h : oddParity y = true) :
    dist y (defaultCode.enc (correctedNibble y)) ≤ 1 := by
  revert y; decide

/-- Even parity and syndrome 0: a codeword. -/
theorem enc_of_syndrome_zero (y : Symbol) (hp : ¬oddParity y = true) (hs : syndrome y = 0b000#3) :
    defaultCode.enc (y.extractLsb' 0 4) = y := by
  revert y; decide

/-- The distance to the nearest codeword, by the overall parity and the syndrome (R84). -/
theorem minDist_by_syndrome (y : Symbol) :
    minDist defaultCode y = if oddParity y then 1 else if syndrome y = 0b000#3 then 0 else 2 := by
  rw [minDist_defaultCode]
  revert y; decide

theorem minDist_eq_two_iff (y : Symbol) :
    minDist defaultCode y = 2 ↔ oddParity y = false ∧ syndrome y ≠ 0b000#3 := by
  rw [minDist_by_syndrome]
  cases oddParity y <;> simp

/-- Two bits from every codeword, and from four of them. -/
theorem near_length_of_minDist_eq_two (y : Symbol) (h : minDist defaultCode y = 2) :
    (near defaultCode y).length = 4 := by
  have hfour (y : Symbol) : dist y (defaultCode.enc (defaultCode.dec y)) = 2 →
      (allNibbles.filter fun v => dist y (defaultCode.enc v) == 2).length = 4 := by
    revert y; decide +kernel
  rw [near, h]
  exact hfour y (by rw [← minDist_defaultCode, h])

theorem minDist_eq_zero_iff (y : Symbol) : minDist defaultCode y = 0 ↔ ∃ v, defaultCode.enc v = y := by
  rw [minDist_defaultCode]
  constructor
  · exact fun h => ⟨_, (eq_of_dist_eq_zero h).symm⟩
  · rintro ⟨v, rfl⟩
    rw [← minDist_defaultCode]
    exact Nat.le_zero.mp ((minDist_le_dist _ _ v).trans_eq (dist_self _))

/-- The nibble of R82 is that of the decoder. -/
theorem decodeNibble_eq_syndromeForm (y : Symbol) :
    decodeNibble defaultCode y =
      if oddParity y then correctedNibble y
      else if syndrome y = 0b000#3 then y.extractLsb' 0 4 else defaultCode.dec y := by
  by_cases hp : oddParity y = true
  · rw [if_pos hp]
    exact decodeNibble_eq_of_dist_le_one defaultCode_codeOk (dist_correctedNibble y hp)
  · rw [if_neg hp]
    by_cases hs : syndrome y = 0b000#3
    · rw [if_pos hs]
      exact decodeNibble_eq_of_dist_le_one defaultCode_codeOk (by simp [enc_of_syndrome_zero y hp hs])
    · rw [if_neg hs, decodeNibble_defaultCode]

/-! ### Symbol pairs -/

/-- An error in each half of a pair is an error in each of its symbols (30_encoding.md R59). -/
theorem pairOfSymbols_flipped (hi lo : Symbol) (i j : Fin 8) :
    pairOfSymbols hi lo ^^^ (0x0001#16 <<< i.val) ^^^ (0x0100#16 <<< j.val) =
      pairOfSymbols (hi ^^^ (0x01#8 <<< j.val)) (lo ^^^ (0x01#8 <<< i.val)) := by
  have hmask : (0x0001#16 <<< i.val) ^^^ (0x0100#16 <<< j.val) =
      (0x01#8 <<< j.val) ++ (0x01#8 <<< i.val) := by
    revert i j; decide
  rw [BitVec.xor_assoc, hmask, pairOfSymbols, pairOfSymbols, BitVec.xor_append]

/-! ### The statements -/

/-- Settles O15: the metric argument for any code meeting R74; for the default code the decode table. -/
theorem decNibbleReturnsNearest : Obligations.DecNibbleReturnsNearest := by
  refine ⟨fun c hc y => decodeNibble_nearest hc y, fun y s => ⟨defaultCode.dec y, ?_, ?_, ?_, ?_⟩⟩
  · rw [← decodeNibble_defaultCode]
    rfl
  · exact dist_defaultCode_dec_le_two y
  · exact dist_defaultCode_dec_le y
  · exact fun w => defaultCode_dec_le_of_nearest

/-- Settles O16: each branch of the syndrome form names a nibble within one bit, or the table's entry. -/
theorem decNibbleSyndromeForm : Obligations.DecNibbleSyndromeForm := by
  intro y s
  exact congrArg (fun v => Host.Outcome.next (s.setResult (.nibble v))) (decodeNibble_eq_syndromeForm y)

/-- Settles O17: the counts by the decode table, the rest from the distances. -/
theorem symbolsClassified : Obligations.SymbolsClassified := by
  refine ⟨?_, ?_, ?_, fun y => ⟨minDist_defaultCode_le_two y, minDist_eq_zero_iff y,
    near_length_of_minDist_eq_one defaultCode_codeOk, near_length_of_minDist_eq_two y, minDist_eq_two_iff y⟩, ?_⟩
  · simp only [minDist_by_syndrome]
    decide +kernel
  · simp only [minDist_by_syndrome]
    decide +kernel
  · simp only [minDist_by_syndrome]
    decide +kernel
  · intro v w p q h
    have hv : dist (defaultCode.enc v ^^^ (0x01#8 <<< p.val)) (defaultCode.enc v) ≤ 1 := by
      rw [dist_xor_self, popcount_shifted_bit]
    have hw : dist (defaultCode.enc v ^^^ (0x01#8 <<< p.val)) (defaultCode.enc w) ≤ 1 := by
      rw [h, dist_xor_self, popcount_shifted_bit]
    obtain rfl : v = w := nibble_unique_of_dist_le_one defaultCode_codeOk hv hw
    have hbit (p q : Fin 8) : 0x01#8 <<< p.val = 0x01#8 <<< q.val → p = q := by revert p q; decide
    exact ⟨rfl, hbit p q (by simpa using h)⟩

/-- Settles O18: the decode table's entry is the smallest of the nearest nibbles, and the decoder's answer. -/
theorem decodeTableSmallestNearest : Obligations.DecodeTableSmallestNearest :=
  fun y => ⟨defaultCode_dec_mem_near y,
    fun _ hw => defaultCode_dec_le_of_nearest ((mem_near.mp hw).trans (minDist_defaultCode y)),
    decodeNibble_defaultCode y⟩

/-- Settles O20: a flipped bit in each half is a flipped bit in each symbol of the pair. -/
theorem decByteDecodesHalves : Obligations.DecByteDecodesHalves := by
  refine ⟨fun _ _ => rfl, fun b i j => ?_⟩
  rw [encodeByte, pairOfSymbols_flipped, decodeByte, highSymbol_pairOfSymbols, lowSymbol_pairOfSymbols,
    decodeNibble_flipped_bit defaultCode_codeOk, decodeNibble_flipped_bit defaultCode_codeOk,
    byteOfNibbles_high_low]

/-- Settles O22: each codec operation only stores its result, which does not mention the state. -/
theorem codecHoldsNoState : Obligations.CodecHoldsNoState := by
  rintro i (⟨v, rfl⟩ | ⟨y, rfl⟩ | ⟨b, rfl⟩ | ⟨p, rfl⟩)
  · exact ⟨.byte (encodeNibble defaultCode v), fun _ => rfl⟩
  · exact ⟨.nibble (decodeNibble defaultCode y), fun _ => rfl⟩
  · exact ⟨.word (encodeByte defaultCode b), fun _ => rfl⟩
  · exact ⟨.byte (decodeByte defaultCode p), fun _ => rfl⟩

/-- Settles O23: R172 clause by clause; the OPEN parameters meet it by construction (log 12). -/
theorem configurationWellFormed : Obligations.ConfigurationWellFormed :=
  ⟨defaultCode_codeOk, defaultCode_dec_mem_near, fifoUserDefault_masked, BitVec.extractLsb'_append_eq_right,
    by decide, by decide⟩

end Sys2Proof.Machine

/-! ## Host operations: each step of each operation as one equation -/

namespace Sys2Proof.Machine

open Sys2Proof.Safety

/-- The tone states by name. -/
theorem DriverState.isTone_iff (x : DriverState) :
    x.isTone = true ↔ x = .transmitZero ∨ x = .transmitOne ∨ x = .transmitAlternating := by
  cases x <;> decide

theorem DriverState.isTone_of_ne (x : DriverState) :
    x ≠ .idle → x ≠ .receivingPacket → x ≠ .transmittingPacket → x.isTone = true := by
  cases x <;> decide

/-! ### The steps of `TRANSMIT` as state functions -/

section Steps
variable {s : State}

/-- T1 in a tone state is a chip reset (R93). -/
theorem State.transmitT1_of_tone (h : s.state.isTone = true) : s.transmitT1 = { s with
    out := s.out ++ (Config.seqReset s.fifoUser).map .bus
    state := .idle, pos := 0x00#8, txStep := .t2 } := by
  rw [State.transmitT1, if_pos h]; rfl

/-- T1 in any other state only passes on to T2 (R93). -/
theorem State.transmitT1_of_not_tone (h : ¬s.state.isTone = true) : s.transmitT1 = { s with txStep := .t2 } := by
  rw [State.transmitT1, if_neg h]; rfl

/-- T2 in `Idle` acquires (R94). -/
theorem State.transmitT2_of_idle (h : s.state = .idle) :
    s.transmitT2 = { s with state := .transmittingPacket, txStep := .t3 } := if_pos h

/-- T2 in any other state holds (R94, R96). -/
theorem State.transmitT2_of_not_idle (h : s.state ≠ .idle) : s.transmitT2 = s := if_neg h

/-- T3 replaces the staged packet, clears the counter and arms (R95). -/
theorem State.transmitT3_eq (size ptype : Byte) (payload : List Byte) : s.transmitT3 size ptype payload = { s with
    tx := { payloadSize := size, ptype := ptype,
            payload := Memory.fill s.tx.payload fun i => payload.getD i 0x00#8 }
    pos := 0x00#8
    out := s.out ++ Config.seqArmTx.map .bus
    txStep := .t1
    result := .nothing } := rfl

end Steps

/-! ### After and before `INIT` -/

section Init
variable {s : State} {k : State → Outcome}

theorem State.initialized_of_irqEn (h : s.irqEn = true) : s.initialized k = k s := if_pos h

/-- The guard of R171. -/
theorem State.initialized_of_masked (h : s.irqEn = false) : s.initialized k = .refused .beforeInit := by
  simp [State.initialized, h]

end Init

section AfterInit
variable {s : State} (hinit : s.irqEn = true)
include hinit

/-- A tone operation after `INIT` (R102 to R104). -/
theorem exec_tone {i : Instr} {x : DriverState}
    (h : (i = .txZero ∧ x = .transmitZero) ∨ (i = .txOne ∧ x = .transmitOne) ∨
      (i = .txAlt ∧ x = .transmitAlternating)) :
    exec i s = .next ((s.enterTone x).setResult .nothing) := by
  rcases h with ⟨rfl, rfl⟩ | ⟨rfl, rfl⟩ | ⟨rfl, rfl⟩
  · show execTxZero s = _
    exact State.initialized_of_irqEn hinit
  · show execTxOne s = _
    exact State.initialized_of_irqEn hinit
  · show execTxAlt s = _
    exact State.initialized_of_irqEn hinit

variable {size ptype : Byte} (payload : List Byte)

/-- `TRANSMIT` after `INIT`: the check of R92 before every step (log 25), then the step that is due. -/
theorem exec_transmit : exec (.transmit size ptype payload) s =
    if packetOk size ptype then
      match s.txStep with
      | .t1 => .next s.transmitT1
      | .t2 => .next s.transmitT2
      | .t3 =>
        if s.state = .transmittingPacket then .next (s.transmitT3 size ptype payload)
        else .refused .transmitOvertaken
    else .refused .packetPrecondition := by
  show execTransmit size ptype payload s = _
  exact State.initialized_of_irqEn hinit

variable (hok : packetOk size ptype = true)
include hok

theorem exec_transmit_t1 (hstep : s.txStep = .t1) : exec (.transmit size ptype payload) s = .next s.transmitT1 := by
  rw [exec_transmit hinit, if_pos hok, hstep]

theorem exec_transmit_t2 (hstep : s.txStep = .t2) : exec (.transmit size ptype payload) s = .next s.transmitT2 := by
  rw [exec_transmit hinit, if_pos hok, hstep]

theorem exec_transmit_t3 (hstep : s.txStep = .t3) : exec (.transmit size ptype payload) s =
    if s.state = .transmittingPacket then .next (s.transmitT3 size ptype payload)
    else .refused .transmitOvertaken := by
  rw [exec_transmit hinit, if_pos hok, hstep]

/-- T2 and T3 from `Idle`, with no event between them (R94, R95). -/
theorem exec_transmit_from_idle (hstep : s.txStep = .t2) (hidle : s.state = .idle) :
    ∃ u, exec (.transmit size ptype payload) s = .next u ∧
      exec (.transmit size ptype payload) u = .next { s with
        state := .transmittingPacket
        pos := 0x00#8
        tx := { payloadSize := size, ptype := ptype,
                payload := Memory.fill s.tx.payload fun i => payload.getD i 0x00#8 }
        out := s.out ++ Config.seqArmTx.map .bus
        txStep := .t1
        result := .nothing } := by
  refine ⟨_, exec_transmit_t2 hinit payload hok hstep, ?_⟩
  rw [State.transmitT2_of_idle hidle]
  exact (exec_transmit_t3 (by exact hinit) payload hok rfl).trans (if_pos rfl)

end AfterInit

/-! ### The statements -/

/-- Settles O27: T1 in a tone state and outside one. -/
theorem transmitT1LeavesTone : Obligations.TransmitT1LeavesTone := by
  intro s size ptype payload hinit hstep hsize hlow hhigh
  rw [exec_transmit_t1 hinit payload ((packetOk_iff size ptype).mpr ⟨hsize, hlow, hhigh⟩) hstep]
  by_cases htone : s.state.isTone = true
  · rw [if_pos ((DriverState.isTone_iff _).mp htone), State.transmitT1_of_tone htone]
  · rw [if_neg (mt (DriverState.isTone_iff _).mpr htone), State.transmitT1_of_not_tone htone]

/-- Settles O28: T2 in `Idle` and outside it. -/
theorem transmitT2AcquiresIdle : Obligations.TransmitT2AcquiresIdle := by
  intro s size ptype payload hinit hstep hsize hlow hhigh
  rw [exec_transmit_t2 hinit payload ((packetOk_iff size ptype).mpr ⟨hsize, hlow, hhigh⟩) hstep]
  by_cases hidle : s.state = .idle
  · rw [if_pos hidle, State.transmitT2_of_idle hidle]
  · rw [if_neg hidle, State.transmitT2_of_not_idle hidle]

/-- Settles O29: in `TransmittingPacket` T3 is one equation, and the copied payload reads as the operand. -/
theorem transmitT3LoadsAndArms : Obligations.TransmitT3LoadsAndArms := by
  intro s size ptype payload hinit hstep hsize hlow hhigh
  rw [exec_transmit_t3 hinit payload ((packetOk_iff size ptype).mpr ⟨hsize, hlow, hhigh⟩) hstep]
  by_cases hstate : s.state = .transmittingPacket
  · rw [if_pos hstate, if_pos hstate]
    exact ⟨_, rfl, Memory.read_fill s.tx.payload _⟩
  · rw [if_neg hstate, if_neg hstate]

/-- Settles O30: T1 ends in `Idle` from `Idle` and from a tone state, so T2 acquires and T3 loads. -/
theorem transmitCompletesFromIdleOrTone : Obligations.TransmitCompletesFromIdleOrTone := by
  intro s size ptype payload hinit hstep hsize hlow hhigh hnotRx hnotTx
  have hok := (packetOk_iff size ptype).mpr ⟨hsize, hlow, hhigh⟩
  by_cases hidle : s.state = .idle
  · have htone : ¬s.state.isTone = true := by simp [hidle, DriverState.isTone]
    have hfirst := exec_transmit_t1 hinit payload hok hstep
    rw [State.transmitT1_of_not_tone htone] at hfirst
    obtain ⟨u, hsecond, hthird⟩ := exec_transmit_from_idle (s := { s with txStep := .t2 }) hinit payload hok rfl hidle
    refine ⟨_, u, _, hfirst, hsecond, hthird.trans ?_, Memory.read_fill s.tx.payload _⟩
    simp [hidle]
  · have htone : s.state.isTone = true := DriverState.isTone_of_ne _ hidle hnotRx hnotTx
    have hfirst := exec_transmit_t1 hinit payload hok hstep
    rw [State.transmitT1_of_tone htone] at hfirst
    obtain ⟨u, hsecond, hthird⟩ := exec_transmit_from_idle
      (s := { s with out := s.out ++ _, state := .idle, pos := 0x00#8, txStep := .t2 }) hinit payload hok rfl rfl
    refine ⟨_, u, _, hfirst, hsecond, hthird.trans ?_, Memory.read_fill s.tx.payload _⟩
    simp [hidle]

/-- Settles O31: each broken precondition fails the check of R92. -/
theorem transmitRefusesBadPacket : Obligations.TransmitRefusesBadPacket := by
  intro s size ptype payload hinit hbad
  rw [exec_transmit hinit, if_neg]
  rw [packetOk_iff]
  omega

/-- Settles O37: each tone operation enters its state, arming exactly outside the tone states. -/
theorem toneOperationsEnterTone : Obligations.ToneOperationsEnterTone := by
  intro s i x hinit h
  rw [exec_tone hinit h]
  rcases s.enterTone_cases x with ⟨htone, henter⟩ | ⟨htone, henter⟩
  · rw [if_pos ((DriverState.isTone_iff _).mp htone), henter]
    rfl
  · rw [if_neg (mt (DriverState.isTone_iff _).mpr (by simp [htone])), henter]
    rfl

/-- Settles O39: the guard of R171 refuses the eight operations, and under the invariant the state is `Idle`. -/
theorem beforeInitRefused : Obligations.BeforeInitRefused := by
  intro s hinv hmasked
  obtain ⟨hidle, -⟩ := hinv.masked hmasked
  simp [exec, execTransmit, execReceive, execSetRegister, execSetFrequency, execTxZero, execTxOne, execTxAlt,
    execReset, State.initialized_of_masked hmasked, execIsIdle, execIsAlive, hidle]

/-- Settles O58: the three reserved rows have no other case. -/
theorem reservedRowsRefused : Obligations.ReservedRowsRefused :=
  fun _ _ => ⟨rfl, rfl, rfl⟩

end Sys2Proof.Machine

/-! ## Events: the whole byte-ready step of each arm as one equation, with its bus transfers in their bracket -/

namespace Sys2Proof.Machine

open Sys2Proof.Safety

/-! ### The ECC test and the totals, as the statements write them -/

theorem isEcc_eq_decide (t : Byte) : isEcc t = decide (t = 2#8 ∨ t = 4#8) := by
  rw [Bool.eq_iff_iff, isEcc_iff, decide_eq_true_iff]

theorem multiplier_eq_ite (t : Byte) : multiplier t = if t = 2#8 ∨ t = 4#8 then 2 else 1 := by
  rw [multiplier, isEcc_eq_decide]
  simp only [decide_eq_true_eq]

/-- A frame read is a count of free reads that depends on the staged packet and the old count only (log 6). -/
theorem State.afterFrameRead_eq {s t : State} (htx : t.tx = s.tx) (hfree : t.freeReads = s.freeReads) (n : Nat) :
    t.afterFrameRead n = { t with freeReads := (s.afterFrameRead n).freeReads } := by
  have hindex : frameIndex t.tx.ptype (n - 5) = frameIndex s.tx.ptype (n - 5) := by rw [htx]
  rw [State.afterFrameRead, State.afterFrameRead, State.afterRead, State.afterRead, hindex]
  split
  · rw [← hfree]
  · split
    · rw [← hfree]
    · rw [← hfree]

/-! ### Events that run no arm -/

section NoArm
variable {s : State} {own : DriverState} {arm : State → Outcome}

/-- While the event source is disabled an event has no step (R120; log 16). -/
theorem State.byteReady_masked (h : s.irqEn = false) (attn : Bool) : s.byteReady own attn arm = .next s :=
  State.byteReady_eq_next.mpr (.inl ⟨h, rfl⟩)

/-- An arm of another driver state is refused (30_encoding.md R67; log 17). -/
theorem State.byteReady_unselected (hirq : s.irqEn = true) (hown : s.state ≠ own) :
    s.byteReady own true arm = .refused .armNotSelected := by
  simp [State.byteReady, hirq, hown]

end NoArm

@[simp] theorem rxStored_eventEntry (r : Word) (s : State) : rxStored r s.eventEntry = rxStored r s := rfl

/-- A counter whose index lies past the payload: the write faults (log 20). -/
theorem armRx_fault {s : State} (r : Word) (hpos : s.pos.toNat ≠ 1) (hindex : 64 ≤ rxIndex s) :
    armRx r s = .fault (.writeOutsidePayload s.active.toBuf (rxIndex s)) := by
  have hwrite (v : Byte) : s.fifoRead.memWrite s.active.toBuf (rxIndex s) v =
      .fault (.writeOutsidePayload s.active.toBuf (rxIndex s)) :=
    State.memWrite_eq_fault.mpr ⟨hindex, rfl⟩
  by_cases hecc : isEcc (s.buf s.active).ptype = true
  · have hi : (s.pos.toNat - 2) / 2 = rxIndex s := (if_pos hecc).symm
    simp [armRx, hpos, hecc, rxOverhead, State.storeEcc, hi, hwrite]
  · have hi : s.pos.toNat - 2 = rxIndex s := (if_neg hecc).symm
    simp [armRx, hpos, hecc, rxOverhead, hi, hwrite]

/-! ### The state after each event -/

section After
variable (s : State) (r : Word)

/-- After an event that emits one byte and does nothing else (R134 to R136). -/
def State.onToneByte (b : Byte) : State :=
  { s with live := true, out := s.out ++ bracket [txWriteWord b] }

/-- After a size byte 1 to 64 in `Idle` (R123). -/
def State.onSizeByte : State :=
  ({ s with
    live := true
    state := .receivingPacket
    pos := 0x01#8
    out := s.out ++ bracket [Config.cmdRxRead] } : State).setPacket s.active.toBuf
      { s.buf s.active with
        payloadSize := receivedByte r
        payload := Memory.fill (s.buf s.active).payload fun _ => 0x00#8 }

/-- After any other size byte, the Desynchronization condition (R123, R142). -/
def State.onBadSizeByte : State :=
  { s with
    live := true
    state := .idle
    pos := 0x00#8
    out := s.out ++ bracket (Config.cmdRxRead :: Config.seqReset s.fifoUser) }

/-- After the event at the total (R124). -/
def State.onWrapUp : State :=
  { s with
    live := true
    state := .idle
    pos := 0x00#8
    out := s.out ++ bracket (Config.seqToRx s.fifoUser) }

/-- After an event that emits a byte of the frame (R125 to R127). -/
def State.onTxByte : State :=
  { s with
    live := true
    pos := s.pos + 1#8
    out := s.out ++ bracket [txWriteWord (frameByte s s.pos.toNat)]
    freeReads := (s.afterFrameRead s.pos.toNat).freeReads }

/-- After the type byte (R128). -/
def State.onTypeByte : State :=
  ({ s with
    live := true
    pos := 0x02#8
    out := s.out ++ bracket [Config.cmdRxRead] } : State).setPacket s.active.toBuf
      { s.buf s.active with ptype := receivedByte r }

/-- The packet with the received byte stored in its payload (R130, R131). -/
def rxPacket : Packet :=
  { s.buf s.active with payload := Memory.write (s.buf s.active).payload (rxIndex s) (rxStored r s) }

/-- After a payload byte that is not the last (R130 to R132). -/
def State.onPayloadByte : State :=
  ({ s with
    live := true
    pos := s.pos + 1#8
    out := s.out ++ bracket [Config.cmdRxRead] } : State).setPacket s.active.toBuf (rxPacket s r)

/-- After the last payload byte, with the packet published (R133). -/
def State.onLastByte : State :=
  (({ s with
    live := true
    pos := 0x00#8
    state := .idle
    finished := s.active
    ready := true
    active := s.active.other
    out := s.out ++ bracket (Config.cmdRxRead :: Config.seqFifoClear s.fifoUser) } : State).setPacket
      s.active.toBuf (rxPacket s r)).setPacket
      s.active.other.toBuf { s.buf s.active.other with payloadSize := 0x00#8 }

@[simp] theorem State.onSizeByte_state : (s.onSizeByte r).state = .receivingPacket := by simp [State.onSizeByte]
@[simp] theorem State.onSizeByte_pos : (s.onSizeByte r).pos = 0x01#8 := by simp [State.onSizeByte]
@[simp] theorem State.onSizeByte_irqEn : (s.onSizeByte r).irqEn = s.irqEn := by simp [State.onSizeByte]
@[simp] theorem State.onSizeByte_active : (s.onSizeByte r).active = s.active := by simp [State.onSizeByte]
@[simp] theorem State.onSizeByte_out : (s.onSizeByte r).out = s.out ++ bracket [Config.cmdRxRead] := by
  simp [State.onSizeByte]
@[simp] theorem State.onTypeByte_state : (s.onTypeByte r).state = s.state := by simp [State.onTypeByte]
@[simp] theorem State.onTypeByte_pos : (s.onTypeByte r).pos = 0x02#8 := by simp [State.onTypeByte]
@[simp] theorem State.onTypeByte_irqEn : (s.onTypeByte r).irqEn = s.irqEn := by simp [State.onTypeByte]
@[simp] theorem State.onTypeByte_active : (s.onTypeByte r).active = s.active := by simp [State.onTypeByte]
@[simp] theorem State.onTypeByte_out : (s.onTypeByte r).out = s.out ++ bracket [Config.cmdRxRead] := by
  simp [State.onTypeByte]
@[simp] theorem State.onPayloadByte_state : (s.onPayloadByte r).state = s.state := by simp [State.onPayloadByte]
@[simp] theorem State.onPayloadByte_pos : (s.onPayloadByte r).pos = s.pos + 1#8 := by simp [State.onPayloadByte]
@[simp] theorem State.onPayloadByte_irqEn : (s.onPayloadByte r).irqEn = s.irqEn := by simp [State.onPayloadByte]
@[simp] theorem State.onPayloadByte_active : (s.onPayloadByte r).active = s.active := by simp [State.onPayloadByte]
@[simp] theorem State.onPayloadByte_out : (s.onPayloadByte r).out = s.out ++ bracket [Config.cmdRxRead] := by
  simp [State.onPayloadByte]
@[simp] theorem State.onLastByte_state : (s.onLastByte r).state = .idle := by simp [State.onLastByte]
@[simp] theorem State.onLastByte_pos : (s.onLastByte r).pos = 0x00#8 := by simp [State.onLastByte]
@[simp] theorem State.onLastByte_irqEn : (s.onLastByte r).irqEn = s.irqEn := by simp [State.onLastByte]
@[simp] theorem State.onLastByte_active : (s.onLastByte r).active = s.active.other := by simp [State.onLastByte]
@[simp] theorem State.onLastByte_finished : (s.onLastByte r).finished = s.active := by simp [State.onLastByte]
@[simp] theorem State.onLastByte_ready : (s.onLastByte r).ready = true := by simp [State.onLastByte]
@[simp] theorem State.onLastByte_out : (s.onLastByte r).out =
    s.out ++ bracket (Config.cmdRxRead :: Config.seqFifoClear s.fifoUser) := by
  simp [State.onLastByte]

end After

/-- The completion of a buffer as one record update and two packets replaced (R133). -/
theorem State.complete_setPacket (s : State) (a : RxBuf) (p : Packet) :
    (s.setPacket a.toBuf p).complete a = (({ s with
      pos := 0x00#8
      state := .idle
      finished := a
      ready := true
      active := a.other
      out := s.out ++ (Config.seqFifoClear s.fifoUser).map .bus } : State).setPacket a.toBuf p).setPacket
        a.other.toBuf { s.buf a.other with payloadSize := 0x00#8 } := by
  cases a <;> rfl

section Arms
variable {s : State} (hirq : s.irqEn = true)
include hirq

/-! ### `IDLE` -/

/-- A size byte 1 to 64 starts a reception (R123). -/
theorem exec_sizeByte (hstate : s.state = .idle) {r : Word} (hsize : sizeOk (receivedByte r) = true) :
    exec (.byteReadyIdle true r) s = .next (s.onSizeByte r) := by
  rw [exec_byteReadyIdle, State.byteReady_of_arm hirq hstate (armIdle_of_sizeOk hsize _), State.eventExit_setPacket,
    State.eventExit_setPos, State.eventExit_setState, State.fifoRead_in_event, State.eventEntry_buf]
  rfl

/-- Any other size byte is the Desynchronization condition (R123, R142). -/
theorem exec_badSizeByte (hstate : s.state = .idle) {r : Word} (hsize : ¬sizeOk (receivedByte r) = true) :
    exec (.byteReadyIdle true r) s = .next s.onBadSizeByte := by
  rw [exec_byteReadyIdle, State.byteReady_of_arm hirq hstate (armIdle_of_not_sizeOk hsize _), State.eventExit_setPos,
    State.eventExit_setState, State.emit_in_event]
  rfl

/-! ### `TX` -/

/-- At the total the event wraps up (R124). -/
theorem exec_wrapUp (hstate : s.state = .transmittingPacket) (htotal : s.pos.toNat = txTotal s.tx) :
    exec (.byteReadyTx true) s = .next s.onWrapUp := by
  rcases armTx_eq s.eventEntry with ⟨_, harm⟩ | ⟨hne, _⟩
  · rw [exec_byteReadyTx, State.byteReady_of_arm hirq hstate harm, State.eventExit_setPos, State.eventExit_setState,
      State.emit_in_event]
    rfl
  · exact absurd htotal hne

/-- At any other counter the event emits the byte of the frame and counts (R125 to R127). -/
theorem exec_txByte (hstate : s.state = .transmittingPacket) (htotal : s.pos.toNat ≠ txTotal s.tx) :
    exec (.byteReadyTx true) s = .next s.onTxByte := by
  rcases armTx_eq s.eventEntry with ⟨heq, _⟩ | ⟨_, harm⟩
  · exact absurd heq htotal
  · have hread := State.afterFrameRead_eq (s := s) (t := s.eventEntry.txEmit (frameByte s s.pos.toNat)) rfl rfl
      s.pos.toNat
    have harm' : armTx s.eventEntry = .next
        (((s.eventEntry.txEmit (frameByte s s.pos.toNat)).afterFrameRead s.pos.toNat).setPos (s.pos + 1#8)) := harm
    rw [exec_byteReadyTx, State.byteReady_of_arm hirq hstate harm', hread]
    exact congrArg (fun t : State => Host.Outcome.next { t with
      pos := s.pos + 1#8
      freeReads := (s.afterFrameRead s.pos.toNat).freeReads }) (s.txEmit_in_event (frameByte s s.pos.toNat))

/-! ### `RX` -/

/-- At counter 1 the type byte is stored (R128). -/
theorem exec_typeByte (hstate : s.state = .receivingPacket) (hpos : s.pos.toNat = 1) (r : Word) :
    exec (.byteReadyRx true r) s = .next (s.onTypeByte r) := by
  show s.byteReady .receivingPacket true (armRx r) = _
  rw [State.byteReady_of_arm hirq hstate (armRx_typeByte r hpos), State.setType, State.setPos_setPacket,
    State.eventExit_setPacket, State.eventExit_setPos, State.fifoRead_in_event]
  rfl

/-- A payload byte that is not the last is stored and counted (R130 to R132). -/
theorem exec_payloadByte (hstate : s.state = .receivingPacket) (hpos : s.pos.toNat ≠ 1) (hindex : rxIndex s < 64)
    (r : Word) (htotal : (s.pos + 1#8).toNat ≠ rxTotal (s.buf s.active)) :
    exec (.byteReadyRx true r) s = .next (s.onPayloadByte r) := by
  show s.byteReady .receivingPacket true (armRx r) = _
  rw [State.byteReady_of_arm hirq hstate (armRx_payloadByte r hpos (by rwa [rxIndex_eventEntry])),
    State.countReceived, if_neg (by simpa using htotal), State.setPos_setPacket, State.eventExit_setPacket,
    State.eventExit_setPos, State.fifoRead_in_event]
  simp [State.onPayloadByte, rxPacket, State.setPos, bracket]

/-- The last payload byte is stored and the packet published (R133). -/
theorem exec_lastByte (hstate : s.state = .receivingPacket) (hpos : s.pos.toNat ≠ 1) (hindex : rxIndex s < 64)
    (r : Word) (htotal : (s.pos + 1#8).toNat = rxTotal (s.buf s.active)) :
    exec (.byteReadyRx true r) s = .next (s.onLastByte r) := by
  show s.byteReady .receivingPacket true (armRx r) = _
  rw [State.byteReady_of_arm hirq hstate (armRx_payloadByte r hpos (by rwa [rxIndex_eventEntry])),
    State.countReceived, if_pos (by simpa using htotal), State.setPos_setPacket, State.eventEntry_active,
    State.complete_setPacket, State.eventExit_setPacket, State.eventExit_setPacket]
  simp [State.onLastByte, rxPacket, bracket, State.eventExit, State.drive]

/-- A payload byte past the buffer faults (20_memory.md R37; log 20). -/
theorem exec_rxFault (hstate : s.state = .receivingPacket) (hpos : s.pos.toNat ≠ 1) (hindex : 64 ≤ rxIndex s)
    (r : Word) : exec (.byteReadyRx true r) s = .fault (.writeOutsidePayload s.active.toBuf (rxIndex s)) := by
  show s.byteReady .receivingPacket true (armRx r) = _
  refine State.byteReady_eq_fault.mpr ⟨hirq, rfl, hstate, ?_⟩
  simpa using armRx_fault (s := s.eventEntry) r hpos (by rwa [rxIndex_eventEntry])

/-! ### The tone states -/

/-- The byte a tone state repeats (R134 to R136). -/
def toneByte : DriverState → Byte
  | .transmitOne => toneOne
  | .transmitAlternating => toneAlt
  | _ => toneZero

theorem exec_toneByte (htone : s.state.isTone = true) (r : Word) :
    exec (eventInstr s.state true r) s = .next (s.onToneByte (toneByte s.state)) := by
  rw [exec_eventInstr]
  rcases (DriverState.isTone_iff _).mp htone with h | h | h
  · rw [h]
    exact State.byteReady_txEmit hirq h toneZero
  · rw [h]
    exact State.byteReady_txEmit hirq h toneOne
  · rw [h]
    exact State.byteReady_txEmit hirq h toneAlt

end Arms

/-! ### The byte of a frame past the header -/

/-- From position 5 on a frame carries the payload (R126). -/
theorem frameByte_payload (s : State) {n : Nat} (h : 5 ≤ n) : frameByte s n = framePayloadByte s (n - 5) := by
  obtain ⟨o, rfl⟩ := Nat.exists_eq_add_of_le h
  rw [Nat.add_comm, Nat.add_sub_cancel]
  rfl

/-- Reading there counts a free read exactly past the 64 bytes (log 6). -/
theorem State.afterFrameRead_freeReads (s : State) {n : Nat} (h : 5 ≤ n) : (s.afterFrameRead n).freeReads =
    if frameIndex s.tx.ptype (n - 5) < 64 then s.freeReads else s.freeReads + 1 := by
  rw [State.afterFrameRead, if_neg (by omega)]
  rcases s.afterRead_cases (frameIndex s.tx.ptype (n - 5)) with ⟨hin, hread⟩ | ⟨hout, hread⟩
  · rw [hread, if_pos hin]
  · rw [hread, if_neg (by omega)]

/-! ### What the statements write out -/

theorem rxIndex_eq (s : State) :
    let ecc : Bool := (s.buf s.active).ptype = 2#8 ∨ (s.buf s.active).ptype = 4#8
    rxIndex s = if ecc then (s.pos.toNat - 2) / 2 else s.pos.toNat - 2 := by
  rw [rxIndex, isEcc_eq_decide]

/-- The byte stored, with a nibble as the low or the high half of a byte (R131). -/
theorem rxStored_eq (r : Word) (s : State) :
    let p := s.buf s.active
    let ecc : Bool := p.ptype = 2#8 ∨ p.ptype = 4#8
    let o := s.pos.toNat - 2
    let v := decodeNibble defaultCode (r.extractLsb' 0 8)
    rxStored r s =
      if ecc then
        Memory.read p.payload (if ecc then o / 2 else o) |||
          (if o % 2 = 0 then v.zeroExtend 8 else v.zeroExtend 8 <<< 4)
      else r.extractLsb' 0 8 := by
  have hlow (v : Nibble) : byteOfNibbles 0x0#4 v = v.zeroExtend 8 := by revert v; decide
  have hhigh (v : Nibble) : byteOfNibbles v 0x0#4 = v.zeroExtend 8 <<< 4 := by revert v; decide
  intro p ecc o v
  have hindex : rxIndex s = if ecc then o / 2 else o := rxIndex_eq s
  have hecc : isEcc p.ptype = ecc := isEcc_eq_decide _
  simp only [rxStored, hindex, hlow, hhigh]
  rw [hecc]
  rfl

/-! ### The statements -/

/-- Settles O41: the event source is tested first. -/
theorem disabledEventChangesNothing : Obligations.DisabledEventChangesNothing := by
  intro s x attn r hmasked
  rw [exec_eventInstr, State.byteReady_masked hmasked]

/-- Settles O59: the driver state is compared with the arm's own. -/
theorem unselectedArmRefused : Obligations.UnselectedArmRefused := by
  intro s x r hirq hne
  rw [exec_eventInstr, State.byteReady_unselected hirq hne.symm]

/-- Settles O45: the wrap-up, with the total of R124 written out. -/
theorem txArmWrapsUpAtTotal : Obligations.TxArmWrapsUpAtTotal := by
  intro s hirq hstate htotal
  rw [exec_wrapUp hirq hstate (by rw [htotal, txTotal_eq, multiplier_eq_ite])]
  simp [State.onWrapUp, bracket]

/-- Settles O47: the byte of the frame at a payload position. -/
theorem txArmEmitsPayload : Obligations.TxArmEmitsPayload := by
  intro s hirq hstate hpos htotal ecc o i b y
  have hecc : isEcc s.tx.ptype = ecc := isEcc_eq_decide _
  have hi : frameIndex s.tx.ptype o = i := by rw [frameIndex, hecc]
  have hb : s.memRead .T i = b := rfl
  have hy : frameByte s s.pos.toNat = y := by
    rw [frameByte_payload s hpos]
    show framePayloadByte s o = y
    simp only [framePayloadByte, hecc, hi, hb]
    rfl
  rw [exec_txByte hirq hstate (by rwa [txTotal_eq, multiplier_eq_ite]), State.onTxByte,
    s.afterFrameRead_freeReads hpos, hy, ← hi]
  rfl

/-- Settles O48: the type byte. -/
theorem rxArmStoresTypeByte : Obligations.RxArmStoresTypeByte :=
  fun _ r hirq hstate hpos => exec_typeByte hirq hstate hpos r

/-- Settles O49: a payload byte that is not the last; the one index written reads as the byte stored. -/
theorem rxArmStoresPayload : Obligations.RxArmStoresPayload := by
  intro s r hirq hstate hpos p ecc o i v y hi htotal
  have hindex : rxIndex s = i := rxIndex_eq s
  have hstored : rxStored r s = y := rxStored_eq r s
  have hnotLast : (s.pos + 1#8).toNat ≠ rxTotal p := by rwa [rxTotal_eq, multiplier, isEcc_eq_decide]
  rw [exec_payloadByte hirq hstate (by omega) (by rwa [hindex]) r hnotLast, State.onPayloadByte, rxPacket,
    hindex, hstored]
  exact ⟨_, rfl, fun j => Memory.read_write p.payload i j y⟩

/-- Settles O50: the last payload byte, stored in the same way. -/
theorem rxArmCompletesPacket : Obligations.RxArmCompletesPacket := by
  intro s r hirq hstate hpos p ecc o i v y hi htotal
  have hindex : rxIndex s = i := rxIndex_eq s
  have hstored : rxStored r s = y := rxStored_eq r s
  have hlast : (s.pos + 1#8).toNat = rxTotal p := by rwa [rxTotal_eq, multiplier, isEcc_eq_decide]
  rw [exec_lastByte hirq hstate (by omega) (by rwa [hindex]) r hlast, State.onLastByte, rxPacket, hindex, hstored]
  refine ⟨_, ?_, fun j => Memory.read_write p.payload i j y⟩
  simp [bracket, p]

/-- Settles O60: past the buffer the write faults. -/
theorem rxArmPastPayloadFaults : Obligations.RxArmPastPayloadFaults := by
  intro s r hirq hstate hpos ecc i hi
  have hindex : rxIndex s = i := rxIndex_eq s
  rw [← hindex]
  exact exec_rxFault hirq hstate (by omega) (by rwa [hindex]) r

/-- Settles O33: the event leaves `ReceivingPacket`, in which T2 holds; T2 leaves `TransmittingPacket`, in which the
event emits the first byte of the header, for the counter is 0 in `Idle`. -/
theorem exactlyOneSideWinsIdle : Obligations.ExactlyOneSideWinsIdle := by
  intro s size ptype payload r hinv hirq hstep hidle hsize hlow hhigh hrlow hrhigh
  have hok := (packetOk_iff size ptype).mpr ⟨hsize, hlow, hhigh⟩
  have hevent : eventInstr s.state true r = .byteReadyIdle true r := by rw [hidle]; rfl
  refine ⟨⟨_, hevent ▸ exec_sizeByte hirq hidle ((sizeOk_iff _).mpr ⟨hrlow, hrhigh⟩), ?_, ?_⟩, ?_⟩
  · simp
  · rw [exec_transmit_t2 (by simpa using hirq) payload hok (by simpa [State.onSizeByte] using hstep),
      State.transmitT2_of_not_idle (by simp)]
  · have hfirst := exec_transmit_t2 hirq payload hok hstep
    rw [State.transmitT2_of_idle hidle] at hfirst
    refine ⟨_, _, hfirst, rfl, txArmEmitsHeader _ hirq rfl ?_, rfl, rfl, rfl⟩
    rw [hinv.idle_pos hidle]
    decide

end Sys2Proof.Machine

/-! ## Inversion: everything an instruction and a step can do -/

namespace Sys2Proof.Machine

open Sys2Proof.Safety

/-! ### Events -/

/-- The states an event can lead to once it has passed the attention check (R120), one constructor for each path
through the arms. -/
inductive Served (r : Word) (s : State) : State → Prop
  | sizeByte (hstate : s.state = .idle) (hsize : sizeOk (receivedByte r) = true) : Served r s (s.onSizeByte r)
  | badSizeByte (hstate : s.state = .idle) (hsize : ¬sizeOk (receivedByte r) = true) : Served r s s.onBadSizeByte
  | wrapUp (hstate : s.state = .transmittingPacket) (htotal : s.pos.toNat = txTotal s.tx) : Served r s s.onWrapUp
  | txByte (hstate : s.state = .transmittingPacket) (htotal : s.pos.toNat ≠ txTotal s.tx) : Served r s s.onTxByte
  | typeByte (hstate : s.state = .receivingPacket) (hpos : s.pos.toNat = 1) : Served r s (s.onTypeByte r)
  | payloadByte (hstate : s.state = .receivingPacket) (hpos : s.pos.toNat ≠ 1) (hindex : rxIndex s < 64)
      (htotal : (s.pos + 1#8).toNat ≠ rxTotal (s.buf s.active)) : Served r s (s.onPayloadByte r)
  | lastByte (hstate : s.state = .receivingPacket) (hpos : s.pos.toNat ≠ 1) (hindex : rxIndex s < 64)
      (htotal : (s.pos + 1#8).toNat = rxTotal (s.buf s.active)) : Served r s (s.onLastByte r)
  | toneByte (htone : s.state.isTone = true) : Served r s (s.onToneByte (toneByte s.state))

/-- An event that passes the attention check goes on, but for a payload byte past the buffer, which faults; it is never
refused. -/
theorem exec_event_cases {s : State} (hirq : s.irqEn = true) (r : Word) :
    (∃ t, exec (eventInstr s.state true r) s = .next t ∧ Served r s t) ∨
    (s.state = .receivingPacket ∧ s.pos.toNat ≠ 1 ∧ 64 ≤ rxIndex s ∧
      exec (eventInstr s.state true r) s = .fault (.writeOutsidePayload s.active.toBuf (rxIndex s))) := by
  by_cases htone : s.state.isTone = true
  · exact .inl ⟨_, exec_toneByte hirq htone r, .toneByte htone⟩
  cases hstate : s.state with
  | idle =>
    by_cases hsize : sizeOk (receivedByte r) = true
    · exact .inl ⟨_, exec_sizeByte hirq hstate hsize, .sizeByte hstate hsize⟩
    · exact .inl ⟨_, exec_badSizeByte hirq hstate hsize, .badSizeByte hstate hsize⟩
  | transmittingPacket =>
    by_cases htotal : s.pos.toNat = txTotal s.tx
    · exact .inl ⟨_, exec_wrapUp hirq hstate htotal, .wrapUp hstate htotal⟩
    · exact .inl ⟨_, exec_txByte hirq hstate htotal, .txByte hstate htotal⟩
  | receivingPacket =>
    by_cases hpos : s.pos.toNat = 1
    · exact .inl ⟨_, exec_typeByte hirq hstate hpos r, .typeByte hstate hpos⟩
    · by_cases hindex : rxIndex s < 64
      · by_cases htotal : (s.pos + 1#8).toNat = rxTotal (s.buf s.active)
        · exact .inl ⟨_, exec_lastByte hirq hstate hpos hindex r htotal, .lastByte hstate hpos hindex htotal⟩
        · exact .inl ⟨_, exec_payloadByte hirq hstate hpos hindex r htotal, .payloadByte hstate hpos hindex htotal⟩
      · exact .inr ⟨rfl, hpos, by omega, exec_rxFault hirq hstate hpos (by omega) r⟩
  | transmitZero | transmitOne | transmitAlternating => simp [hstate, DriverState.isTone] at htone

theorem exec_event_served {s t : State} {r : Word} (hirq : s.irqEn = true)
    (h : exec (eventInstr s.state true r) s = .next t) : Served r s t := by
  rcases exec_event_cases hirq r with ⟨u, hu, hserved⟩ | ⟨_, _, _, hfault⟩
  · rw [h] at hu
    cases hu
    exact hserved
  · rw [h] at hfault
    cases hfault

/-- The event of the present driver state is never refused, and it faults only past the buffer. -/
theorem exec_event_stops (s : State) (attn : Bool) (r : Word) :
    (∃ t, exec (eventInstr s.state attn r) s = .next t) ∨
    (s.state = .receivingPacket ∧ s.pos.toNat ≠ 1 ∧ 64 ≤ rxIndex s ∧
      ∃ f, exec (eventInstr s.state attn r) s = .fault f) := by
  by_cases hirq : s.irqEn = true
  · cases attn with
    | false => exact .inl ⟨_, spuriousWakeOnlyPulsesSelect s s.state r hirq⟩
    | true =>
      rcases exec_event_cases hirq r with ⟨t, ht, _⟩ | ⟨hstate, hpos, hindex, hfault⟩
      · exact .inl ⟨t, ht⟩
      · exact .inr ⟨hstate, hpos, hindex, _, hfault⟩
  · exact .inl ⟨s, disabledEventChangesNothing s s.state attn r (by simpa using hirq)⟩

@[simp] theorem eventInstr_format (x : DriverState) (attn : Bool) (r : Word) :
    (eventInstr x attn r).format = .event := by
  cases x <;> rfl

/-! ### Instructions -/

/-- After `INIT` (R88). -/
def State.onInit (s : State) : State :=
  { s with
    state := .idle
    pos := 0x00#8
    live := false
    ready := false
    irqEn := true
    active := .A
    fifoUser := Config.fifoUserDefault
    out := s.out ++ (Config.seqInit Config.fifoUserDefault).map .bus
    rxA := { s.rxA with payloadSize := 0x00#8 }
    rxB := { s.rxB with payloadSize := 0x00#8 }
    result := .nothing }

/-- Everything an instruction that goes on can do to the state. The operations that only drive the bus and return a
value share one constructor. -/
inductive Effect : Instr → State → State → Prop
  | none {i : Instr} {s : State} : Effect i s s
  | report {i : Instr} {s : State} (hop : i.format = .op) (ws : List Word) (result : Result) :
      Effect i s ((s.emit ws).setResult result)
  | init {s : State} : Effect .init s s.onInit
  | leaveTone {s : State} {n k : Byte} {l : List Byte} (hinit : s.irqEn = true) (hstep : s.txStep = .t1)
      (htone : s.state.isTone = true) : Effect (.transmit n k l) s (s.chipReset.setTxStep .t2)
  | noTone {s : State} {n k : Byte} {l : List Byte} : Effect (.transmit n k l) s (s.setTxStep .t2)
  | acquire {s : State} {n k : Byte} {l : List Byte} (hinit : s.irqEn = true) (hstep : s.txStep = .t2)
      (hidle : s.state = .idle) : Effect (.transmit n k l) s ((s.setState .transmittingPacket).setTxStep .t3)
  | load {s : State} {n k : Byte} {l : List Byte} (hinit : s.irqEn = true) (hok : packetOk n k = true)
      (hstep : s.txStep = .t3) (hstate : s.state = .transmittingPacket) :
      Effect (.transmit n k l) s (s.transmitT3 n k l)
  | receive {s : State} (result : Result) : Effect .receive s ((s.setReady false).setResult result)
  | isAlive {s : State} (result : Result) : Effect .isAlive s ((s.setLive false).setResult result)
  | fifoControl {s : State} (w : Word) : Effect (.setRegister w) s
      (((s.setFifoUser (w &&& Config.fifoUserMask)).xfer (Config.fifoCtlWord (w &&& Config.fifoUserMask))).setResult
        .nothing)
  | tone {i : Instr} {s : State} {x : DriverState} (hinit : s.irqEn = true)
      (hx : (i = .txZero ∧ x = .transmitZero) ∨ (i = .txOne ∧ x = .transmitOne) ∨
        (i = .txAlt ∧ x = .transmitAlternating)) (ws : List Word) :
      Effect i s (((s.setState x).emit ws).setResult .nothing)
  | reset {s : State} (hinit : s.irqEn = true) : Effect .reset s (s.chipReset.setResult .nothing)
  | spurious {i : Instr} {s : State} (hevent : i.format = .event) : Effect i s s.spuriousWake
  | event {s t : State} {r : Word} (hirq : s.irqEn = true) (hserved : Served r s t) :
      Effect (eventInstr s.state true r) s t

theorem State.emit_nil (s : State) : s.emit [] = s := by
  simp [State.emit, State.drive]

theorem effect_of_result {i : Instr} (hop : i.format = .op) {s : State} (result : Result) :
    Effect i s (s.setResult result) := by
  simpa only [State.emit_nil] using Effect.report (s := s) hop [] result

/-- A tone operation drives the arming sequence or nothing (R101). -/
theorem effect_of_tone {i : Instr} {s : State} {x : DriverState} (hinit : s.irqEn = true)
    (hx : (i = .txZero ∧ x = .transmitZero) ∨ (i = .txOne ∧ x = .transmitOne) ∨
      (i = .txAlt ∧ x = .transmitAlternating)) : Effect i s ((s.enterTone x).setResult .nothing) := by
  by_cases htone : s.state.isTone = true
  · rw [State.enterTone, if_pos htone]
    simpa only [State.emit_nil] using Effect.tone (s := s) hinit hx []
  · rw [State.enterTone, if_neg htone]
    exact .tone hinit hx Config.seqArmTx

theorem effect_of_transmit {n k : Byte} {l : List Byte} {s t : State} (h : execTransmit n k l s = .next t) :
    Effect (.transmit n k l) s t := by
  obtain ⟨hinit, hok, ⟨hstep, rfl⟩ | ⟨hstep, rfl⟩ | ⟨hstep, hstate, rfl⟩⟩ := execTransmit_eq_next h
  · by_cases htone : s.state.isTone = true
    · rw [State.transmitT1, if_pos htone]
      exact .leaveTone hinit hstep htone
    · rw [State.transmitT1, if_neg htone]
      exact .noTone
  · by_cases hidle : s.state = .idle
    · rw [State.transmitT2, if_pos hidle]
      exact .acquire hinit hstep hidle
    · rw [State.transmitT2_of_not_idle hidle]
      exact .none
  · exact .load hinit hok hstep hstate

theorem effect_of_event {x : DriverState} {attn : Bool} {r : Word} {s t : State}
    (h : exec (eventInstr x attn r) s = .next t) : Effect (eventInstr x attn r) s t := by
  have hready := h
  rw [exec_eventInstr, State.byteReady_eq_next] at hready
  obtain ⟨_, rfl⟩ | ⟨_, _, rfl⟩ | ⟨hirq, rfl, rfl, _⟩ := hready
  · exact .none
  · exact .spurious (by simp)
  · exact .event hirq (exec_event_served hirq h)

/-- The inversion of `exec`. -/
theorem exec_effect {i : Instr} {s t : State} (h : exec i s = .next t) : Effect i s t := by
  cases i with
  | init => cases h; exact .init
  | transmit n k l => exact effect_of_transmit h
  | receive =>
    obtain ⟨_, h⟩ := State.initialized_eq_next.mp (show execReceive s = .next t from h)
    cases h
    exact .receive _
  | isIdle | encNibble v | decNibble y | encByte b | decByte p => cases h; exact effect_of_result rfl _
  | isAlive => cases h; exact .isAlive _
  | setRegister w =>
    obtain ⟨_, h⟩ := State.initialized_eq_next.mp (show execSetRegister w s = .next t from h)
    cases h
    by_cases hctl : Config.isFifoCtl w = true
    · rw [State.writeRegister, if_pos hctl]
      exact .fifoControl w
    · rw [State.writeRegister, if_neg hctl]
      exact .report rfl [w] _
  | setFrequency v =>
    obtain ⟨_, h⟩ := State.initialized_eq_next.mp (show execSetFrequency v s = .next t from h)
    cases h
    by_cases hlegal : freqOk (freqField v) = true
    · rw [State.writeFrequency, if_pos hlegal]
      exact .report rfl [_] _
    · rw [State.writeFrequency, if_neg hlegal]
      exact effect_of_result rfl _
  | txZero =>
    obtain ⟨hinit, h⟩ := State.initialized_eq_next.mp (show execTxZero s = .next t from h)
    cases h
    exact effect_of_tone hinit (.inl ⟨rfl, rfl⟩)
  | txOne =>
    obtain ⟨hinit, h⟩ := State.initialized_eq_next.mp (show execTxOne s = .next t from h)
    cases h
    exact effect_of_tone hinit (.inr (.inl ⟨rfl, rfl⟩))
  | txAlt =>
    obtain ⟨hinit, h⟩ := State.initialized_eq_next.mp (show execTxAlt s = .next t from h)
    cases h
    exact effect_of_tone hinit (.inr (.inr ⟨rfl, rfl⟩))
  | reset =>
    obtain ⟨hinit, h⟩ := State.initialized_eq_next.mp (show execReset s = .next t from h)
    cases h
    exact .reset hinit
  | reservedOpF => cases h
  | byteReadyIdle attn r => exact effect_of_event (x := .idle) h
  | byteReadyTx attn => exact effect_of_event (x := .transmittingPacket) (r := 0x0000#16) h
  | byteReadyRx attn r => exact effect_of_event (x := .receivingPacket) h
  | byteReadyTone0 attn => exact effect_of_event (x := .transmitZero) (r := 0x0000#16) h
  | byteReadyTone1 attn => exact effect_of_event (x := .transmitOne) (r := 0x0000#16) h
  | byteReadyToneA attn => exact effect_of_event (x := .transmitAlternating) (r := 0x0000#16) h
  | reservedState6 attn => cases h
  | reservedState7 attn => cases h
end Sys2Proof.Machine

/-! ## The step: fetch, decode, execute, retire -/

namespace Sys2Proof.Machine

open Sys2Proof.Safety

/-! ### How an operation can stop -/

/-- An operation goes on, or is refused for another reason than the driver state of an event. -/
def OperationStops (o : Outcome) : Prop := (∃ t, o = .next t) ∨ ∃ q, q ≠ .armNotSelected ∧ o = .refused q

theorem initialized_stops (s : State) (f : State → State) : OperationStops (s.initialized fun s => .next (f s)) := by
  by_cases hinit : s.irqEn = true
  · exact .inl ⟨_, State.initialized_of_irqEn hinit⟩
  · exact .inr ⟨.beforeInit, nofun, State.initialized_of_masked (by simpa using hinit)⟩

theorem transmit_stops (n k : Byte) (l : List Byte) (s : State) : OperationStops (exec (.transmit n k l) s) := by
  by_cases hinit : s.irqEn = true
  · rw [exec_transmit hinit]
    by_cases hok : packetOk n k = true
    · rw [if_pos hok]
      cases s.txStep with
      | t1 => exact .inl ⟨_, rfl⟩
      | t2 => exact .inl ⟨_, rfl⟩
      | t3 =>
        by_cases hstate : s.state = .transmittingPacket
        · exact .inl ⟨_, if_pos hstate⟩
        · exact .inr ⟨.transmitOvertaken, nofun, if_neg hstate⟩
    · exact .inr ⟨.packetPrecondition, nofun, if_neg hok⟩
  · have hmasked : s.irqEn = false := by simpa using hinit
    refine .inr ⟨.beforeInit, nofun, ?_⟩
    show execTransmit n k l s = _
    exact State.initialized_of_masked hmasked

/-- No operation faults, and none is refused for the driver state of an event. -/
theorem exec_op_stops {i : Instr} (hop : i.format = .op) (s : State) : OperationStops (exec i s) := by
  cases i with
  | transmit n k l => exact transmit_stops n k l s
  | receive => exact (initialized_stops s _ : OperationStops (execReceive s))
  | setRegister w => exact (initialized_stops s _ : OperationStops (execSetRegister w s))
  | setFrequency v => exact (initialized_stops s _ : OperationStops (execSetFrequency v s))
  | txZero => exact (initialized_stops s _ : OperationStops (execTxZero s))
  | txOne => exact (initialized_stops s _ : OperationStops (execTxOne s))
  | txAlt => exact (initialized_stops s _ : OperationStops (execTxAlt s))
  | reset => exact (initialized_stops s _ : OperationStops (execReset s))
  | init | isIdle | isAlive | encNibble _ | decNibble _ | encByte _ | decByte _ => exact .inl ⟨_, rfl⟩
  | reservedOpF => exact .inr ⟨.reservedOperation, nofun, rfl⟩
  | _ => cases hop

/-! ### One step -/

/-- The bytes of an event decode to the arm of its driver state, for they are its encoding (R67). -/
theorem decode_eventBytes (x : DriverState) (attn : Bool) (r : Word) :
    ∃ rest, decode .event (eventBytes x attn r) = .ok (eventInstr x attn r, rest) := by
  cases x with
  | idle => exact ⟨[], decode_encode (i := .byteReadyIdle attn r) rfl []⟩
  | transmittingPacket => exact ⟨_, decode_encode (i := .byteReadyTx attn) rfl (wordBytes r)⟩
  | receivingPacket => exact ⟨[], decode_encode (i := .byteReadyRx attn r) rfl []⟩
  | transmitZero => exact ⟨_, decode_encode (i := .byteReadyTone0 attn) rfl (wordBytes r)⟩
  | transmitOne => exact ⟨_, decode_encode (i := .byteReadyTone1 attn) rfl (wordBytes r)⟩
  | transmitAlternating => exact ⟨_, decode_encode (i := .byteReadyToneA attn) rfl (wordBytes r)⟩

section Step
variable {s : State} {ts : List Turn}

theorem step_of_no_fetch (h : s.fetch = none) : step s = .next s.endTurn := by
  rw [step, h]

/-- An event's turn (log 1). -/
theorem step_of_event {attn : Bool} {r : Word} (h : s.turns = .event attn r :: ts) :
    step s = andThen (exec (eventInstr s.state attn r) s) fun t => .next t.endTurn := by
  obtain ⟨rest, hdecode⟩ := decode_eventBytes s.state attn r
  have hfetch : s.fetch = some (.event, eventBytes s.state attn r) := by rw [State.fetch, h]
  simp only [step, hfetch, hdecode]
  rfl

/-- The host's turn with bytes that are no call (log 7). -/
theorem step_of_undecodable {e : DecodeError} (h : s.turns = .host :: ts) (hcalls : s.calls ≠ [])
    (hdecode : decode .op s.calls = .error e) : step s = .refused (.undecodable e) := by
  have hfetch : s.fetch = some (.op, s.calls) := by simp [State.fetch, h, hcalls]
  simp only [step, hfetch, hdecode]

/-- The host's turn with a call (log 1). -/
theorem step_of_decoded {i : Instr} {rest : List Byte} (h : s.turns = .host :: ts)
    (hdecode : decode .op s.calls = .ok (i, rest)) :
    step s = andThen (exec i s) fun t => .next (t.dropCall rest).endTurn := by
  have hcalls : s.calls ≠ [] := by
    intro hnil
    rw [hnil] at hdecode
    cases hdecode
  have hfetch : s.fetch = some (.op, s.calls) := by simp [State.fetch, h, hcalls]
  simp only [step, hfetch, hdecode]
  rfl

/-- What a returned call leaves of the host's calls. -/
theorem State.dropCall_eq (t : State) (rest : List Byte) :
    t.dropCall rest = { t with calls := if t.txStep = .t1 then rest else t.calls } := by
  rw [State.dropCall]
  split <;> rfl

end Step

/-- Everything a step can be: nothing to run, a call that does not decode, an operation, or the event of the present
driver state. -/
theorem step_cases (s : State) :
    step s = .next s.endTurn ∨
    (∃ e, step s = .refused (.undecodable e)) ∨
    (∃ i rest, i.format = .op ∧ step s = andThen (exec i s) fun t => .next (t.dropCall rest).endTurn) ∨
    (∃ attn r, step s = andThen (exec (eventInstr s.state attn r) s) fun t => .next t.endTurn) := by
  match h : s.turns with
  | [] => exact .inl (step_of_no_fetch (by rw [State.fetch, h]))
  | .event attn r :: ts => exact .inr (.inr (.inr ⟨attn, r, step_of_event h⟩))
  | .host :: ts =>
    by_cases hcalls : s.calls = []
    · exact .inl (step_of_no_fetch (by simp [State.fetch, h, hcalls]))
    · match hdecode : decode .op s.calls with
      | .error e => exact .inr (.inl ⟨e, step_of_undecodable h hcalls hdecode⟩)
      | .ok (i, rest) =>
        exact .inr (.inr (.inl ⟨i, rest, (decode_sound hdecode).2.1, step_of_decoded h hdecode⟩))

/-- A step that goes on has run an instruction, and then at most used up the turn and the call. -/
theorem step_eq_next {s t : State} (h : step s = .next t) :
    ∃ u, (u = s ∨ ∃ i, exec i s = .next u) ∧ ∃ turns calls, t = { u with turns := turns, calls := calls } := by
  rcases step_cases s with hstep | ⟨e, hstep⟩ | ⟨i, rest, _, hstep⟩ | ⟨attn, r, hstep⟩
  · rw [hstep] at h
    cases h
    exact ⟨s, .inl rfl, _, _, rfl⟩
  · rw [hstep] at h
    cases h
  · rw [hstep] at h
    obtain ⟨u, hexec, hu⟩ := andThen_eq_next.mp h
    cases hu
    exact ⟨u, .inr ⟨i, hexec⟩, _, _, by rw [State.dropCall_eq]; rfl⟩
  · rw [hstep] at h
    obtain ⟨u, hexec, hu⟩ := andThen_eq_next.mp h
    cases hu
    exact ⟨u, .inr ⟨_, hexec⟩, _, _, rfl⟩

/-- A run of any machine starts with a step. -/
theorem core_run_succ (M : Host.Core) {s t : M.State} (n : Nat) (h : M.step s = .next t) :
    M.run (n + 1) s = M.run n t := by
  rw [Host.Core.run, h]

/-! ### The statements -/

/-- Settles O4: the call is fetched, decoded and run, and dropped when it has returned. -/
theorem hostTurnRunsDecodedCall : Obligations.HostTurnRunsDecodedCall := by
  intro s ts i rest hturns hdecode
  simp only [step_of_decoded hturns hdecode, State.dropCall_eq]
  rfl

/-- Settles O5: the bytes of an event decode to the arm of the present driver state. -/
theorem eventTurnRunsSelectedArm : Obligations.EventTurnRunsSelectedArm :=
  fun _ _ _ _ hturns => step_of_event hturns

/-- Settles O6: in both cases nothing is fetched. -/
theorem noTurnNoChange : Obligations.NoTurnNoChange := by
  refine ⟨fun s hturns => ?_, fun s ts hturns hcalls => ?_⟩
  · rw [step_of_no_fetch (by rw [State.fetch, hturns]), State.endTurn, hturns, List.tail_nil, ← hturns]
  · rw [step_of_no_fetch (by simp [State.fetch, hturns, hcalls]), State.endTurn, hturns, List.tail_cons]

/-- Settles O7: a step runs an operation, which is not refused for this reason, or the event of the present driver
state, which is not refused at all. -/
theorem stepNeverMisselectsArm : Obligations.StepNeverMisselectsArm := by
  intro s hrefused
  rcases step_cases s with hstep | ⟨e, hstep⟩ | ⟨i, rest, hop, hstep⟩ | ⟨attn, r, hstep⟩
  · simp [hstep] at hrefused
  · simp [hstep] at hrefused
  · rcases exec_op_stops hop s with ⟨t, ht⟩ | ⟨q, hq, hrefusal⟩
    · simp [hstep, ht] at hrefused
    · simp [hstep, hrefusal, hq] at hrefused
  · rcases exec_event_stops s attn r with ⟨t, ht⟩ | ⟨_, _, _, f, hfault⟩
    · simp [hstep, ht] at hrefused
    · simp [hstep, hfault] at hrefused

/-- Settles O11: only a payload byte past the buffer faults, and under the invariant its index is below 64. -/
theorem noFaultUnderInvariant : Obligations.NoFaultUnderInvariant := by
  intro s f hinv hfault
  rcases step_cases s with hstep | ⟨e, hstep⟩ | ⟨i, rest, hop, hstep⟩ | ⟨attn, r, hstep⟩
  · simp [hstep] at hfault
  · simp [hstep] at hfault
  · rcases exec_op_stops hop s with ⟨t, ht⟩ | ⟨q, hq, hrefusal⟩
    · simp [hstep, ht] at hfault
    · simp [hstep, hrefusal] at hfault
  · rcases exec_event_stops s attn r with ⟨t, ht⟩ | ⟨hstate, hpos, hindex, _⟩
    · simp [hstep, ht] at hfault
    · exact absurd (rxIndex_lt hinv hstate hpos) (by omega)

/-- Settles O32: each held turn is a step that uses up the turn and keeps the call. -/
theorem transmitHoldsWhileNotIdle : Obligations.TransmitHoldsWhileNotIdle := by
  intro n s ts size ptype payload rest hinit hstep hbusy hsize hlow hhigh hdecode hturns
  have hok := (packetOk_iff size ptype).mpr ⟨hsize, hlow, hhigh⟩
  induction n generalizing s with
  | zero =>
    rw [List.replicate_zero, List.nil_append] at hturns
    rw [← hturns]
    rfl
  | succ n ih =>
    have hkeep : s.dropCall rest = s := if_neg (by simp [hstep])
    have hheld : step s = .next s.endTurn := by
      rw [step_of_decoded hturns hdecode, exec_transmit_t2 hinit payload hok hstep,
        State.transmitT2_of_not_idle hbusy, andThen_next, hkeep]
    have hrest : s.endTurn.turns = List.replicate n .host ++ ts := by
      rw [State.endTurn_turns, hturns]
      rfl
    refine (core_run_succ Sys2Proof.core n hheld).trans ?_
    exact ih s.endTurn hinit hstep hbusy hdecode hrest

end Sys2Proof.Machine

/-! ## Invariants: every instruction keeps them, hence every step -/

namespace Sys2Proof.Machine

open Sys2Proof.Safety

/-! ### Packets -/

section Packets
variable (s : State) (p : Packet)

@[simp] theorem State.setPacket_buf_self (b : RxBuf) : (s.setPacket b.toBuf p).buf b = p := by
  cases b <;> rfl

@[simp] theorem State.setPacket_buf_other (b : RxBuf) : (s.setPacket b.toBuf p).buf b.other = s.buf b.other := by
  cases b <;> rfl

@[simp] theorem State.setPacket_other_buf (b : RxBuf) : (s.setPacket b.other.toBuf p).buf b = s.buf b := by
  cases b <;> rfl

@[simp] theorem State.setPacket_toBuf_tx (b : RxBuf) : (s.setPacket b.toBuf p).tx = s.tx := by
  cases b <;> rfl

/-- What holds of every packet holds of every packet after one is replaced by a packet of which it holds. -/
theorem State.packet_of_setPacket {P : Packet → Prop} {s : State} {p : Packet} {b : Buf} (h : ∀ c, P (s.packet c))
    (hp : P p) (c : Buf) : P ((s.setPacket b p).packet c) := by
  by_cases hc : c = b
  · rw [hc, State.setPacket_packet_self]
    exact hp
  · rw [State.setPacket_packet_ne s p hc]
    exact h c

end Packets

/-- A packet whose size lies inside the payload and whose payload is canonical (10_state.md R26 (e); log 5). -/
def PacketInv (p : Packet) : Prop := p.payloadSize.toNat ≤ 64 ∧ Memory.wf p.payload

/-- The three packets of a state that meets the invariant. -/
theorem packetInv_packet {s : State} (h : DriverInv s) : ∀ c, PacketInv (s.packet c)
  | .A => ⟨h.size_A, h.mem_A⟩
  | .B => ⟨h.size_B, h.mem_B⟩
  | .T => ⟨h.size_T, h.mem_T⟩

theorem packetInv_buf {s : State} (h : DriverInv s) (b : RxBuf) : PacketInv (s.buf b) := packetInv_packet h b.toBuf

/-- The invariant, with the clauses about the three packets as one. -/
theorem driverInv_of_packets {s : State} (hpackets : ∀ c, PacketInv (s.packet c))
    (idle_pos : s.state = .idle → s.pos = 0x00#8)
    (receiving : s.state = .receivingPacket →
      0 < (s.buf s.active).payloadSize.toNat ∧ (s.buf s.active).payloadSize.toNat ≤ 64 ∧
        (s.pos.toNat = 1 ∨ (2 ≤ s.pos.toNat ∧ s.pos.toNat < rxTotal (s.buf s.active))))
    (handoff : s.ready = true → s.finished = s.active.other)
    (fifo : s.fifoUser &&& ~~~Config.fifoUserMask = 0x0000#16)
    (transmitting : s.state = .transmittingPacket → s.pos.toNat ≤ txTotal s.tx)
    (pos_le : s.pos.toNat ≤ 134)
    (masked : s.irqEn = false → s.state = .idle ∧ s.ready = false) : DriverInv s where
  idle_pos := idle_pos
  receiving := receiving
  handoff := handoff
  fifo := fifo
  size_A := (hpackets .A).1
  size_B := (hpackets .B).1
  size_T := (hpackets .T).1
  transmitting := transmitting
  pos_le := pos_le
  mem_A := (hpackets .A).2
  mem_B := (hpackets .B).2
  mem_T := (hpackets .T).2
  masked := masked

/-! ### The driver's invariant, instruction by instruction -/

theorem multiplier_pos (t : Byte) : 0 < multiplier t := by
  rcases multiplier_cases t with hm | hm <;> rw [hm] <;> decide

/-- A counter below the total gives a payload index below the packet's size (R129 to R131). -/
theorem rxIndex_lt_size_of_lt_total {s : State} (hlow : 2 ≤ s.pos.toNat)
    (hhigh : s.pos.toNat < rxTotal (s.buf s.active)) : rxIndex s < (s.buf s.active).payloadSize.toNat := by
  rw [rxTotal_eq, multiplier] at hhigh
  rw [rxIndex]
  split at hhigh
  case isTrue hecc =>
    rw [if_pos hecc]
    omega
  case isFalse hecc =>
    rw [if_neg hecc]
    omega

/-- A counter within its bound does not wrap when it is incremented (log 18). -/
theorem toNat_succ_of_le {n : Byte} (h : n.toNat ≤ 134) : (n + 1#8).toNat = n.toNat + 1 := by
  simp only [BitVec.toNat_add, BitVec.toNat_ofNat]
  omega

section Keeps
variable {s : State} (h : DriverInv s)
include h

/-- A payload byte that is received has an index below the packet's size (10_state.md R26 (b)). -/
theorem rxIndex_lt_size (hstate : s.state = .receivingPacket) (hpos : s.pos.toNat ≠ 1) :
    rxIndex s < (s.buf s.active).payloadSize.toNat := by
  obtain ⟨_, _, hone | ⟨hlow, hhigh⟩⟩ := h.receiving hstate
  · exact absurd hone hpos
  · exact rxIndex_lt_size_of_lt_total hlow hhigh

theorem toNat_pos_succ : (s.pos + 1#8).toNat = s.pos.toNat + 1 := toNat_succ_of_le h.pos_le

/-- `Idle` with the counter at 0 is always allowed. -/
theorem driverInv_idle : DriverInv ((s.setState .idle).setPos 0x00#8) :=
  { h with
    idle_pos := fun _ => rfl
    receiving := nofun
    transmitting := nofun
    pos_le := Nat.zero_le _
    masked := fun hmasked => ⟨rfl, (h.masked hmasked).2⟩ }

theorem driverInv_init : DriverInv s.onInit :=
  { h with
    idle_pos := fun _ => rfl
    receiving := nofun
    handoff := nofun
    fifo := fifoUserDefault_masked
    size_A := Nat.zero_le _
    size_B := Nat.zero_le _
    transmitting := nofun
    pos_le := Nat.zero_le _
    masked := nofun }

theorem driverInv_acquire (hinit : s.irqEn = true) (hidle : s.state = .idle) :
    DriverInv ((s.setState .transmittingPacket).setTxStep .t3) :=
  { h with
    idle_pos := nofun
    receiving := nofun
    transmitting := fun _ => by
      show s.pos.toNat ≤ _
      rw [h.idle_pos hidle]
      exact Nat.zero_le _
    masked := fun hmasked => absurd (hinit.symm.trans hmasked) nofun }

theorem driverInv_load {n k : Byte} (hinit : s.irqEn = true) (hok : packetOk n k = true)
    (hstate : s.state = .transmittingPacket) (l : List Byte) : DriverInv (s.transmitT3 n k l) :=
  { h with
    idle_pos := fun _ => rfl
    receiving := fun hrx => absurd (hstate.symm.trans hrx) nofun
    size_T := ((packetOk_iff n k).mp hok).1
    transmitting := fun _ => Nat.zero_le _
    pos_le := Nat.zero_le _
    mem_T := Memory.wf_fill h.mem_T fun i => l.getD i 0x00#8
    masked := fun hmasked => absurd (hinit.symm.trans hmasked) nofun }

theorem driverInv_tone {x : DriverState} (hinit : s.irqEn = true) (htone : x.isTone = true) :
    DriverInv (s.setState x) :=
  { h with
    idle_pos := fun hx : x = _ => by simp [hx, DriverState.isTone] at htone
    receiving := fun hx : x = _ => by simp [hx, DriverState.isTone] at htone
    transmitting := fun hx : x = _ => by simp [hx, DriverState.isTone] at htone
    masked := fun hmasked => absurd (hinit.symm.trans hmasked) nofun }

/-! ### Events -/

theorem driverInv_sizeByte {r : Word} (hirq : s.irqEn = true) (hsize : sizeOk (receivedByte r) = true) :
    DriverInv (s.onSizeByte r) := by
  obtain ⟨hlow, hhigh⟩ := (sizeOk_iff _).mp hsize
  have hwf : Memory.wf (Memory.fill (s.buf s.active).payload fun _ => 0x00#8) :=
    Memory.wf_fill (packetInv_buf h s.active).2 _
  rw [State.onSizeByte]
  generalize Memory.fill (s.buf s.active).payload (fun _ => 0x00#8) = m at hwf
  refine driverInv_of_packets ?packets ?idle ?receiving ?handoff ?fifo ?transmitting ?pos ?masked
  case packets =>
    exact State.packet_of_setPacket (fun c => packetInv_packet h c) ⟨hhigh, hwf⟩
  case receiving => simp [hlow, hhigh]
  all_goals simp [hirq, h.fifo]
  case handoff => exact h.handoff

theorem driverInv_txByte (hirq : s.irqEn = true) (hstate : s.state = .transmittingPacket)
    (htotal : s.pos.toNat ≠ txTotal s.tx) : DriverInv s.onTxByte := by
  have hsucc := toNat_pos_succ h
  have hlt : s.pos.toNat + 1 ≤ txTotal s.tx := by
    have := h.transmitting hstate
    omega
  have hle := txTotal_le h.size_T
  exact { h with
    idle_pos := fun hidle => absurd (hstate.symm.trans hidle) nofun
    receiving := fun hrx => absurd (hstate.symm.trans hrx) nofun
    transmitting := fun _ => hsucc.trans_le hlt
    pos_le := hsucc.trans_le (hlt.trans hle)
    masked := fun hmasked => absurd (hirq.symm.trans hmasked) nofun }

/-- The reception of a packet that keeps its size goes on: the counter has moved, and not reached the total. -/
theorem driverInv_receiving {p : Packet} {n : Byte} {l : List OutEvent} (hirq : s.irqEn = true)
    (hstate : s.state = .receivingPacket) (hsize : p.payloadSize = (s.buf s.active).payloadSize)
    (hwf : Memory.wf p.payload) (hlow : 2 ≤ n.toNat) (hhigh : n.toNat < rxTotal p) :
    DriverInv (({ s with live := true, pos := n, out := l } : State).setPacket s.active.toBuf p) := by
  obtain ⟨hnonzero, hle, _⟩ := h.receiving hstate
  have htotal := rxTotal_le (p := p) (by rwa [hsize])
  refine driverInv_of_packets ?packets ?idle ?receiving ?handoff ?fifo ?transmitting ?pos ?masked
  case packets =>
    exact State.packet_of_setPacket (fun c => packetInv_packet h c) ⟨by rwa [hsize], hwf⟩
  case receiving => simp [hsize, hnonzero, hle, hlow, hhigh]
  all_goals simp [hstate, hirq, h.fifo]
  case handoff => exact h.handoff
  case pos => omega

theorem driverInv_typeByte (hirq : s.irqEn = true) (hstate : s.state = .receivingPacket) (r : Word) :
    DriverInv (s.onTypeByte r) := by
  obtain ⟨hnonzero, _, _⟩ := h.receiving hstate
  refine driverInv_receiving h hirq hstate rfl (packetInv_buf h s.active).2 (by decide) ?_
  rw [rxTotal_eq]
  exact Nat.lt_add_of_pos_right (Nat.mul_pos hnonzero (multiplier_pos _))

theorem driverInv_payloadByte (hirq : s.irqEn = true) (hstate : s.state = .receivingPacket) (hpos : s.pos.toNat ≠ 1)
    (hindex : rxIndex s < 64) (r : Word) (htotal : (s.pos + 1#8).toNat ≠ rxTotal (s.buf s.active)) :
    DriverInv (s.onPayloadByte r) := by
  have hsucc := toNat_pos_succ h
  obtain ⟨_, _, hone | ⟨hlow, hhigh⟩⟩ := h.receiving hstate
  · exact absurd hone hpos
  · refine driverInv_receiving h hirq hstate rfl (Memory.wf_write (packetInv_buf h s.active).2 hindex _) (by omega) ?_
    show (s.pos + 1#8).toNat < rxTotal (s.buf s.active)
    omega

theorem driverInv_lastByte (hirq : s.irqEn = true) (hindex : rxIndex s < 64) (r : Word) :
    DriverInv (s.onLastByte r) := by
  refine driverInv_of_packets ?packets ?idle ?receiving ?handoff ?fifo ?transmitting ?pos ?masked
  case packets =>
    refine State.packet_of_setPacket (State.packet_of_setPacket (fun c => packetInv_packet h c) ?_) ?_
    · exact ⟨(packetInv_buf h s.active).1, Memory.wf_write (packetInv_buf h s.active).2 hindex _⟩
    · exact ⟨Nat.zero_le _, (packetInv_buf h s.active.other).2⟩
  all_goals simp [State.onLastByte, hirq, h.fifo]

theorem served_keeps_driverInv {r : Word} {t : State} (hirq : s.irqEn = true) (hserved : Served r s t) :
    DriverInv t := by
  cases hserved with
  | sizeByte _ hsize => exact driverInv_sizeByte h hirq hsize
  | badSizeByte => exact { driverInv_idle h with }
  | wrapUp => exact { driverInv_idle h with }
  | txByte hstate htotal => exact driverInv_txByte h hirq hstate htotal
  | typeByte hstate => exact driverInv_typeByte h hirq hstate r
  | payloadByte hstate hpos hindex htotal => exact driverInv_payloadByte h hirq hstate hpos hindex r htotal
  | lastByte _ _ hindex => exact driverInv_lastByte h hirq hindex r
  | toneByte => exact { h with }

/-- Every instruction keeps the driver's invariant. -/
theorem exec_keeps_driverInv {i : Instr} {t : State} (hexec : exec i s = .next t) : DriverInv t := by
  cases exec_effect hexec with
  | none => exact h
  | report => exact { h with }
  | init => exact driverInv_init h
  | leaveTone => exact { driverInv_idle h with }
  | noTone => exact { h with }
  | acquire hinit _ hidle => exact driverInv_acquire h hinit hidle
  | load hinit hok _ hstate => exact driverInv_load h hinit hok hstate _
  | receive => exact { h with handoff := nofun, masked := fun hmasked => ⟨(h.masked hmasked).1, rfl⟩ }
  | isAlive => exact { h with }
  | fifoControl w => exact { h with fifo := fifoUser_masked w }
  | tone hinit hx =>
    refine { driverInv_tone h hinit ?_ with }
    rcases hx with ⟨_, rfl⟩ | ⟨_, rfl⟩ | ⟨_, rfl⟩ <;> rfl
  | reset => exact { driverInv_idle h with }
  | spurious => exact { h with }
  | event hirq hserved => exact served_keeps_driverInv h hirq hserved

end Keeps
end Sys2Proof.Machine

/-! ## The zero tail, and the invariants of a step -/

namespace Sys2Proof.Machine

open Sys2Proof.Safety

/-- The payload bytes past the size are zero (41_host_operations.md R98). -/
def ZeroTail (p : Packet) : Prop := ∀ i, p.payloadSize.toNat ≤ i → Memory.read p.payload i = 0x00#8

/-- A canonical payload lists no index past the 64 bytes (log 5). -/
theorem Memory.read_of_wf {m : Memory} (hwf : Memory.wf m) {i : Nat} (hi : 64 ≤ i) : Memory.read m i = 0x00#8 := by
  obtain ⟨_, hcells⟩ := hwf
  clear * - hcells hi
  induction m with
  | nil => rfl
  | cons c m ih =>
    obtain ⟨hc, hm⟩ := List.forall_mem_cons.mp hcells
    have hlt : c.1 < 64 := hc.1
    rw [Memory.read, if_neg (by omega)]
    exact ih hm

/-- T3 reaches no receive buffer (R95). -/
@[simp] theorem State.transmitT3_buf (s : State) (n k : Byte) (l : List Byte) (b : RxBuf) :
    (s.transmitT3 n k l).buf b = s.buf b := by
  cases b <;> rfl

/-- A payload filled with zeros, on top of one that is canonical. -/
theorem zeroTail_filled {s : State} (h : DriverInv s) (n t : Byte) :
    ZeroTail { payloadSize := n, ptype := t, payload := Memory.fill (s.buf s.active).payload fun _ => 0x00#8 } := by
  have hread := Memory.read_fill (s.buf s.active).payload fun _ => 0x00#8
  generalize Memory.fill (s.buf s.active).payload (fun _ => 0x00#8) = m at hread
  intro i _
  show Memory.read m i = _
  rw [hread]
  split
  · rfl
  · exact Memory.read_of_wf (packetInv_buf h s.active).2 (by omega)

section Keeps
variable {s : State} (h : DriverInv s) (htail : TailZero s)
include h htail

/-- A packet with a zero tail in the active buffer keeps both clauses, for the packet handed over stands in the other
buffer (10_state.md R26 (c)). -/
theorem tailZero_setPacket {p : Packet} (hp : ZeroTail p) (x : DriverState) (n : Byte) (l : List OutEvent) :
    TailZero (({ s with live := true, state := x, pos := n, out := l } : State).setPacket s.active.toBuf p) where
  receiving _ := by
    rw [State.setPacket_active, State.setPacket_buf_self]
    exact hp
  finished hready := by
    rw [State.setPacket_ready] at hready
    have hother : s.finished = s.active.other := h.handoff hready
    have hfinished : ZeroTail (s.buf s.active.other) := hother ▸ htail.finished hready
    rw [State.setPacket_finished, hother, State.setPacket_buf_other]
    exact hfinished

/-- A received byte is written below the size. -/
theorem zeroTail_rxPacket (hstate : s.state = .receivingPacket) (hpos : s.pos.toNat ≠ 1) (r : Word) :
    ZeroTail (rxPacket s r) := by
  intro i hi
  have hindex := rxIndex_lt_size h hstate hpos
  have hsize : (s.buf s.active).payloadSize.toNat ≤ i := hi
  show Memory.read (Memory.write _ _ _) i = _
  rw [Memory.read_write_ne _ _ (by omega)]
  exact htail.receiving hstate i hsize

theorem tailZero_lastByte (hstate : s.state = .receivingPacket) (hpos : s.pos.toNat ≠ 1) (r : Word) :
    TailZero (s.onLastByte r) where
  receiving hrx := by simp [State.onLastByte] at hrx
  finished _ := by
    have hbuf : (s.onLastByte r).buf (s.onLastByte r).finished = rxPacket s r := by simp [State.onLastByte]
    rw [hbuf]
    exact zeroTail_rxPacket h htail hstate hpos r

theorem served_keeps_tailZero {r : Word} {t : State} (hserved : Served r s t) : TailZero t := by
  cases hserved with
  | sizeByte => exact tailZero_setPacket h htail (zeroTail_filled h _ _) _ _ _
  | badSizeByte => exact { htail with receiving := nofun }
  | wrapUp => exact { htail with receiving := nofun }
  | txByte => exact { htail with }
  | typeByte hstate =>
    exact tailZero_setPacket h htail (p := { s.buf s.active with ptype := receivedByte r }) (htail.receiving hstate)
      s.state _ _
  | payloadByte hstate hpos =>
    exact tailZero_setPacket h htail (zeroTail_rxPacket h htail hstate hpos r) s.state _ _
  | lastByte hstate hpos => exact tailZero_lastByte h htail hstate hpos r
  | toneByte => exact { htail with }

/-- Every instruction keeps the zero tail, under the driver's invariant. -/
theorem exec_keeps_tailZero {i : Instr} {t : State} (hexec : exec i s = .next t) : TailZero t := by
  cases exec_effect hexec with
  | none => exact htail
  | report => exact { htail with }
  | init => exact ⟨nofun, nofun⟩
  | leaveTone => exact { htail with receiving := nofun }
  | noTone => exact { htail with }
  | acquire => exact { htail with receiving := nofun }
  | load _ _ _ hstate =>
    refine ⟨fun hrx => absurd (hstate.symm.trans hrx) nofun, fun hready => ?_⟩
    rw [State.transmitT3_buf]
    exact htail.finished hready
  | receive => exact { htail with finished := nofun }
  | isAlive => exact { htail with }
  | fifoControl => exact { htail with }
  | tone _ hx =>
    refine { htail with receiving := fun hrx => ?_ }
    rcases hx with ⟨_, rfl⟩ | ⟨_, rfl⟩ | ⟨_, rfl⟩ <;> cases hrx
  | reset => exact { htail with receiving := nofun }
  | spurious => exact { htail with }
  | event _ hserved => exact served_keeps_tailZero h htail hserved

end Keeps

/-! ### The statements -/

/-- Settles O8: the driver is `Idle` at power-on, with nothing published and empty packets (log 4). -/
theorem resetMeetsInvariants : Obligations.ResetMeetsInvariants := by
  have hempty : PacketInv Packet.powerOn := ⟨Nat.zero_le _, Memory.wf_nil⟩
  refine ⟨driverInv_of_packets (fun c => ?_) (fun _ => rfl) nofun nofun fifoUserDefault_masked nofun (Nat.zero_le _)
    fun _ => ⟨rfl, rfl⟩, ⟨nofun, nofun⟩⟩
  cases c <;> exact hempty

/-- Settles O9: the instruction of the step keeps the invariant, which does not speak of calls and turns. -/
theorem stepKeepsDriverInvariant : Obligations.StepKeepsDriverInvariant := by
  intro s t hinv hstep
  obtain ⟨u, rfl | ⟨i, hexec⟩, turns, calls, rfl⟩ := step_eq_next hstep
  · exact { hinv with }
  · exact { exec_keeps_driverInv hinv hexec with }

/-- Settles O10: in the same way. -/
theorem stepKeepsZeroTail : Obligations.StepKeepsZeroTail := by
  intro s t hinv htail hstep
  obtain ⟨u, rfl | ⟨i, hexec⟩, turns, calls, rfl⟩ := step_eq_next hstep
  · exact { htail with }
  · exact { exec_keeps_tailZero hinv htail hexec with }

end Sys2Proof.Machine

/-! ## Rules over all instructions: bus transfers, edges, writers, the buffer handed over -/

namespace Sys2Proof.Machine

open Sys2Proof.Safety

/-- The counter at 1 as a byte. -/
theorem pos_eq_one {n : Byte} (h : n.toNat = 1) : n = 0x01#8 := BitVec.eq_of_toNat_eq h

/-! ### What an event leaves alone -/

section Frame
variable {r : Word} {s t : State}

/-- Every arm sets the liveness flag, sets the ready flag or leaves it, and leaves the enable, the FIFO sub-field, the
staged packet, the result, the calls and the turns (10_state.md R27). -/
theorem served_frame (h : Served r s t) : t.live = true ∧ (t.ready = true ∨ t.ready = s.ready) ∧
    t.irqEn = s.irqEn ∧ t.fifoUser = s.fifoUser ∧ t.tx = s.tx ∧ t.result = s.result ∧
    t.calls = s.calls ∧ t.turns = s.turns := by
  cases h with
  | sizeByte => simp [State.onSizeByte]
  | typeByte => simp [State.onTypeByte]
  | payloadByte => simp [State.onPayloadByte]
  | lastByte => simp [State.onLastByte]
  | badSizeByte | wrapUp | txByte | toneByte => exact ⟨rfl, .inr rfl, rfl, rfl, rfl, rfl, rfl, rfl⟩

/-- The receive buffer that is not active, after an event (20_memory.md R56). -/
theorem served_other_buf (h : Served r s t) : t.buf s.active.other = s.buf s.active.other ∨
    (s.state = .receivingPacket ∧ t = s.onLastByte r) := by
  cases h with
  | sizeByte => exact .inl (State.setPacket_buf_other _ _ _)
  | typeByte => exact .inl (State.setPacket_buf_other _ _ _)
  | payloadByte => exact .inl (State.setPacket_buf_other _ _ _)
  | lastByte hstate => exact .inr ⟨hstate, rfl⟩
  | badSizeByte | wrapUp | txByte | toneByte => exact .inl rfl

/-- Every event of a state that meets the invariant takes an edge of the table of R137, or leaves the driver state and
the counter. -/
theorem served_edge (hinv : DriverInv s) (h : Served r s t) :
    Edge (eventInstr s.state true r) s t ∨ (t.state = s.state ∧ t.pos = s.pos) := by
  have hsucc := toNat_pos_succ hinv
  cases h with
  | sizeByte hstate hsize =>
    obtain ⟨hlow, hhigh⟩ := (sizeOk_iff _).mp hsize
    rw [hstate]
    exact .inl (.sizeByte hstate hlow hhigh (by simp) (by simp))
  | badSizeByte hstate hsize =>
    rw [sizeOk_iff] at hsize
    rw [hstate]
    exact .inl (.badSizeByte hstate (by omega) rfl rfl)
  | wrapUp hstate htotal =>
    rw [hstate]
    exact .inl (.wrapUp hstate htotal rfl rfl)
  | txByte hstate htotal =>
    have hle := hinv.transmitting hstate
    rw [hstate]
    exact .inl (.emit hstate (by omega) hstate rfl)
  | typeByte hstate hpos =>
    rw [hstate]
    refine .inl (.receive hstate (.inl hpos) (by simpa using hstate) ?_)
    rw [State.onTypeByte_pos, pos_eq_one hpos]
    rfl
  | payloadByte hstate hpos hindex htotal =>
    obtain ⟨_, _, hone | ⟨_, hlt⟩⟩ := hinv.receiving hstate
    · exact absurd hone hpos
    · rw [hstate]
      exact .inl (.receive hstate (.inr (by omega)) (by simpa using hstate) (by simp))
  | lastByte hstate hpos hindex htotal =>
    rw [hstate]
    exact .inl (.received hstate (hsucc.symm.trans htotal) (by simp) (by simp))
  | toneByte => exact .inr ⟨rfl, rfl⟩

end Frame

/-! ### The statements -/

/-- Settles O43: each path through the arms has its own list of transfers, in the bracket. -/
theorem eventBusTransfers : Obligations.EventBusTransfers := by
  intro s t r hirq hexec
  have hserved := exec_event_served hirq hexec
  obtain ⟨_, _, _, _, _, hresult, _⟩ := served_frame hserved
  have hbracket (ws : List Word) :
      s.out ++ bracket ws = s.out ++ [.csAssert] ++ ws.map .bus ++ [.csDeassert] := by simp [bracket]
  refine ⟨hresult, ?_⟩
  cases hserved with
  | sizeByte hstate hsize =>
    refine ⟨[Config.cmdRxRead], (State.onSizeByte_out s r).trans (hbracket _), ?_⟩
    rw [hstate]
    exact congrArg _ (if_pos ((sizeOk_iff _).mp hsize)).symm
  | badSizeByte hstate hsize =>
    refine ⟨_, hbracket _, ?_⟩
    rw [hstate]
    exact congrArg _ (if_neg (mt (sizeOk_iff _).mpr hsize)).symm
  | wrapUp hstate =>
    refine ⟨_, hbracket _, ?_⟩
    rw [hstate]
    exact (if_pos rfl).mpr rfl
  | txByte hstate =>
    have hbusy : s.onTxByte.state ≠ .idle := fun hidle => absurd (hstate.symm.trans hidle) nofun
    refine ⟨_, hbracket _, ?_⟩
    rw [hstate]
    exact (if_neg hbusy).mpr ⟨_, rfl⟩
  | typeByte hstate =>
    refine ⟨[Config.cmdRxRead], (State.onTypeByte_out s r).trans (hbracket _), ?_⟩
    rw [hstate]
    exact congrArg _ (if_neg (by simp [hstate])).symm
  | payloadByte hstate =>
    refine ⟨[Config.cmdRxRead], (State.onPayloadByte_out s r).trans (hbracket _), ?_⟩
    rw [hstate]
    exact congrArg _ (if_neg (by simp [hstate])).symm
  | lastByte hstate =>
    refine ⟨_, (State.onLastByte_out s r).trans (hbracket _), ?_⟩
    rw [hstate]
    exact congrArg _ (if_pos (by simp)).symm
  | toneByte htone =>
    refine ⟨_, hbracket _, ?_⟩
    rcases (DriverState.isTone_iff _).mp htone with hstate | hstate | hstate <;> rw [hstate] <;> exact ⟨_, rfl⟩

/-- Settles O52: an event by the table of its arm; of the operations, those that write the driver state or the counter
have an edge each, but for T3. -/
theorem onlyTableEdges : Obligations.OnlyTableEdges := by
  intro i s t hinv hexec
  cases exec_effect hexec with
  | none => exact .inr (.inl ⟨rfl, rfl⟩)
  | report => exact .inr (.inl ⟨rfl, rfl⟩)
  | init => exact .inl (.init rfl rfl)
  | leaveTone _ hstep htone => exact .inl (.leaveTone hstep htone rfl rfl)
  | noTone => exact .inr (.inl ⟨rfl, rfl⟩)
  | acquire _ hstep hidle => exact .inl (.acquire hstep hidle rfl (hinv.idle_pos hidle))
  | load _ _ hstep hstate => exact .inr (.inr ⟨hstate, rfl, hstate, hstep, _, _, _, rfl⟩)
  | receive => exact .inr (.inl ⟨rfl, rfl⟩)
  | isAlive => exact .inr (.inl ⟨rfl, rfl⟩)
  | fifoControl => exact .inr (.inl ⟨rfl, rfl⟩)
  | tone _ hx =>
    rcases hx with ⟨rfl, rfl⟩ | ⟨rfl, rfl⟩ | ⟨rfl, rfl⟩
    · exact .inl (.toneZero rfl rfl)
    · exact .inl (.toneOne rfl rfl)
    · exact .inl (.toneAlt rfl rfl)
  | reset => exact .inl (.reset rfl rfl)
  | spurious => exact .inr (.inl ⟨rfl, rfl⟩)
  | event _ hserved => exact (served_edge hinv hserved).imp_right .inl

/-- Settles O53: each effect against the list of writers; an event is of the event format. -/
theorem fieldWriters : Obligations.FieldWriters := by
  intro i s t hexec
  cases exec_effect hexec with
  | @event _ _ r hirq hserved =>
    obtain ⟨hlive, hready, hirqEn, hfifo, htx, _, hcalls, hturns⟩ := served_frame hserved
    have hevent : (eventInstr s.state true r).format = .event := eventInstr_format _ _ _
    refine ⟨fun _ => .inl ⟨hlive, hevent⟩, fun hne => .inl ⟨hready.resolve_right hne, hevent⟩, absurd hirqEn,
      fun _ => .inr hevent, fun _ => hevent, absurd hfifo, fun _ => .inr hevent, fun _ => .inr hevent, absurd htx,
      hcalls, hturns⟩
  | none | report | leaveTone | noTone | acquire | receive | isAlive | fifoControl | tone | reset => simp
  | init => simp [State.onInit]
  | load => simp [State.transmitT3_eq]
  | spurious => simp [State.spuriousWake]

/-- Settles O55: only the last payload byte reaches the other buffer, and `RECEIVE` then returns the one completed. -/
theorem finishedBufferPreserved : Obligations.FinishedBufferPreserved := by
  intro i s t hne hexec
  cases exec_effect hexec with
  | event hirq hserved =>
    refine (served_other_buf hserved).imp_right ?_
    rintro ⟨hstate, rfl⟩
    refine ⟨⟨_, by rw [hstate]; rfl⟩, by simp [State.onLastByte], by simp, by simp, _,
      exec_receive (by simpa using hirq), by simp⟩
  | init => exact absurd rfl hne
  | none | report | leaveTone | noTone | acquire | receive | isAlive | fifoControl | tone | reset => simp
  | load => simp
  | spurious => simp [State.spuriousWake]

end Sys2Proof.Machine

/-! ## A whole transmission -/

namespace Sys2Proof.Machine

open Sys2Proof.Safety

/-- The events after one whose outcome is known. -/
theorem runEvents_cons {r : Word} {rs : List Word} {s t : State} (h : exec (eventInstr s.state true r) s = .next t) :
    runEvents (r :: rs) s = runEvents rs t := by
  rw [runEvents, h, andThen_next]

/-! ### Which reads of a frame are free -/

/-- The bytes of a frame depend on the staged packet and the count of free reads only (log 6). -/
theorem frameByte_congr {s t : State} (htx : t.tx = s.tx) (hfree : t.freeReads = s.freeReads) :
    frameByte t = frameByte s := by
  have hread (i : Nat) : t.memRead .T i = s.memRead .T i := by
    simp only [State.memRead, State.packet_T, htx, hfree]
  funext n
  match n with
  | 0 | 1 | 2 => rfl
  | 3 | 4 => simp only [frameByte, htx]
  | o + 5 => simp only [frameByte, framePayloadByte, htx, hread]

/-- Before the trailing byte no read of a frame is free: its index is below the size. -/
theorem State.afterFrameRead_before_trailing {s : State} {n : Nat} (hsize : s.tx.payloadSize.toNat ≤ 64)
    (hn : n + 1 < txTotal s.tx) : (s.afterFrameRead n).freeReads = s.freeReads := by
  by_cases hheader : n < 5
  · rw [State.afterFrameRead, if_pos hheader]
  · rw [s.afterFrameRead_freeReads (by omega), if_pos]
    rw [txTotal_eq, multiplier] at hn
    rw [frameIndex]
    split at hn
    case isTrue hecc =>
      rw [if_pos hecc]
      omega
    case isFalse hecc =>
      rw [if_neg hecc]
      omega

/-- The payload index of the trailing byte is the size (30_encoding.md R61). -/
theorem frameIndex_trailing (p : Packet) :
    frameIndex p.ptype (p.payloadSize.toNat * multiplier p.ptype) = p.payloadSize.toNat := by
  rw [frameIndex, multiplier]
  split <;> omega

/-- The trailing byte of a frame is a free read exactly when the payload has 64 bytes. -/
theorem State.afterFrameRead_trailing {s : State} : (s.afterFrameRead (txTotal s.tx - 1)).freeReads =
    if s.tx.payloadSize.toNat < 64 then s.freeReads else s.freeReads + 1 := by
  have hoffset : txTotal s.tx - 1 - 5 = s.tx.payloadSize.toNat * multiplier s.tx.ptype := by
    rw [txTotal_eq]
    omega
  rw [s.afterFrameRead_freeReads (by rw [txTotal_eq]; omega), hoffset, frameIndex_trailing]

/-! ### The events of a transmission -/

/-- From any counter of a transmission: one byte of the frame for each event, then the wrap-up. The induction is over
the bytes left; a free read can only be the last of them. -/
theorem runEvents_frame (n : Nat) {s : State} {rs : List Word} (hirq : s.irqEn = true)
    (hstate : s.state = .transmittingPacket) (hsize : s.tx.payloadSize.toNat ≤ 64)
    (hpos : s.pos.toNat + n = txTotal s.tx) (hlen : rs.length = n + 1) :
    runEvents rs s = .next { s with
      live := true
      state := .idle
      pos := 0x00#8
      out := s.out ++ emission ((List.range' s.pos.toNat n).map (frameByte s)) ++
        bracket (Config.seqToRx s.fifoUser)
      freeReads := if n = 0 then s.freeReads else (s.afterFrameRead (txTotal s.tx - 1)).freeReads } := by
  induction n generalizing s rs with
  | zero =>
    obtain ⟨r, rfl⟩ := List.length_eq_one_iff.mp hlen
    have hwrap : exec (eventInstr s.state true r) s = .next s.onWrapUp := by
      rw [hstate]
      exact exec_wrapUp hirq hstate hpos
    rw [runEvents_cons hwrap]
    simp [runEvents, State.onWrapUp, emission]
  | succ n ih =>
    obtain ⟨r, rs, rfl⟩ := List.exists_cons_of_length_eq_add_one hlen
    have hemit : exec (eventInstr s.state true r) s = .next s.onTxByte := by
      rw [hstate]
      exact exec_txByte hirq hstate (by omega)
    have hle := txTotal_le hsize
    have hsucc : (s.pos + 1#8).toNat = s.pos.toNat + 1 := toNat_succ_of_le (by omega)
    have hrest := ih (s := s.onTxByte) (rs := rs) hirq hstate hsize
      (by show (s.pos + 1#8).toNat + n = txTotal s.tx; omega) (by simpa using hlen)
    rw [runEvents_cons hemit, hrest]
    by_cases hlast : n = 0
    · subst hlast
      have htrailing : s.pos.toNat = txTotal s.tx - 1 := by omega
      simp [State.onTxByte, emission, htrailing]
    · have hfree : s.onTxByte.freeReads = s.freeReads :=
        State.afterFrameRead_before_trailing hsize (by omega)
      have hread : (s.onTxByte.afterFrameRead (txTotal s.onTxByte.tx - 1)).freeReads =
          (s.afterFrameRead (txTotal s.tx - 1)).freeReads := by
        rw [State.afterFrameRead_eq (s := s) (t := s.onTxByte) rfl hfree]
        rfl
      have hpos' : s.onTxByte.pos.toNat = s.pos.toNat + 1 := hsucc
      rw [frameByte_congr (s := s) (t := s.onTxByte) rfl hfree, hpos', hread]
      simp [State.onTxByte, emission, List.range'_succ, hlast]

/-! ### The frame -/

/-- A list over an even range, two elements at a time. -/
theorem map_range_mul_two {α : Type} (f : Nat → α) (n : Nat) :
    (List.range (n * 2)).map f = (List.range n).flatMap fun i => [f (2 * i), f (2 * i + 1)] := by
  induction n with
  | zero => rfl
  | succ n ih =>
    rw [Nat.succ_mul, List.range_succ, List.range_succ, List.range_succ, List.flatMap_append, ← ih]
    simp [Nat.mul_comm]

/-- The payload positions of a frame carry the payload as it goes on the air (R126, 30_encoding.md R61). -/
theorem map_framePayloadByte (s : State) (hsize : s.tx.payloadSize.toNat ≤ 64) :
    (List.range (s.tx.payloadSize.toNat * multiplier s.tx.ptype)).map (framePayloadByte s) =
      airData s.tx.ptype (payloadBytes s.tx) := by
  have hread {i : Nat} (hi : i ∈ List.range s.tx.payloadSize.toNat) : s.memRead .T i = Memory.read s.tx.payload i :=
    s.memRead_inside .T (Nat.lt_of_lt_of_le (List.mem_range.mp hi) hsize)
  rw [multiplier, airData, payloadBytes]
  by_cases hecc : isEcc s.tx.ptype = true
  · rw [if_pos hecc, if_pos hecc, map_range_mul_two, List.flatMap_map]
    refine List.flatMap_congr fun i hi => ?_
    have hodd : (2 * i + 1) / 2 = i := by omega
    simp [framePayloadByte, frameIndex, hecc, hread hi, hodd]
  · rw [if_neg hecc, if_neg hecc, Nat.mul_one]
    refine List.map_congr_left fun i hi => ?_
    simp [framePayloadByte, frameIndex, hecc, hread hi]

/-- The bytes emitted from counter 0 are the frame of R61. -/
theorem map_frameByte (s : State) (hsize : s.tx.payloadSize.toNat ≤ 64) :
    (List.range' 0 (txTotal s.tx)).map (frameByte s) =
      txFrame s.tx.payloadSize s.tx.ptype (payloadBytes s.tx) (s.memRead .T s.tx.payloadSize.toNat) := by
  have htotal : txTotal s.tx = 5 + (s.tx.payloadSize.toNat * multiplier s.tx.ptype + 1) := by
    rw [txTotal_eq]
    omega
  have hpayload (o : Nat) : frameByte s (5 + o) = framePayloadByte s o := by
    rw [frameByte_payload s (by omega), Nat.add_sub_cancel_left]
  have htrailing : framePayloadByte s (s.tx.payloadSize.toNat * multiplier s.tx.ptype) =
      if isEcc s.tx.ptype then encodeNibble defaultCode (lowNibble (s.memRead .T s.tx.payloadSize.toNat))
      else s.memRead .T s.tx.payloadSize.toNat := by
    rw [framePayloadByte, frameIndex_trailing]
    by_cases hecc : isEcc s.tx.ptype = true
    · simp [hecc, multiplier]
    · simp [hecc]
  have hheader : (List.range 5).map (frameByte s) = [preamble, sync0, sync1, s.tx.payloadSize, s.tx.ptype] := rfl
  rw [← List.range_eq_range', htotal, List.range_add, List.map_append, List.map_map, hheader, List.range_succ,
    List.map_append]
  simp only [Function.comp_def, hpayload, map_framePayloadByte s hsize]
  rw [txFrame, ← htrailing, List.append_assoc]
  rfl

/-- Settles O56: the run from counter 0, with the bytes emitted as the frame of R61. -/
theorem transmitEventsEmitFrame : Obligations.TransmitEventsEmitFrame := by
  intro s rs hirq hstate hpos hsize hlen
  have hzero : s.pos.toNat = 0 := by rw [hpos]; rfl
  have htotal : rs.length = txTotal s.tx + 1 := hlen
  have hread : s.memRead .T s.tx.payloadSize.toNat =
      if s.tx.payloadSize.toNat < 64 then Memory.read s.tx.payload s.tx.payloadSize.toNat
      else Config.freeByte s.freeReads := rfl
  have hne : txTotal s.tx ≠ 0 := by rw [txTotal_eq]; omega
  rw [runEvents_frame (txTotal s.tx) hirq hstate hsize (by rw [hzero, Nat.zero_add]) htotal, if_neg hne, hzero,
    map_frameByte s hsize, State.afterFrameRead_trailing, hread]

end Sys2Proof.Machine

/-! ## A whole reception -/

namespace Sys2Proof.Machine

open Sys2Proof.Safety

/-! ### What the received bytes make of a payload -/

/-- The byte that a received byte at offset `o` of the payload stores (R130, R131). -/
def airByte (ptype : Byte) (m : Memory) (o : Nat) (y : Byte) : Byte :=
  if isEcc ptype then
    Memory.read m (frameIndex ptype o) |||
      if o % 2 = 0 then byteOfNibbles 0x0#4 (decodeNibble defaultCode y)
      else byteOfNibbles (decodeNibble defaultCode y) 0x0#4
  else y

/-- The payload after bytes received from offset `o` on. -/
def airMemory (ptype : Byte) : Memory → Nat → List Byte → Memory
  | m, _, [] => m
  | m, o, y :: ys => airMemory ptype (Memory.write m (frameIndex ptype o) (airByte ptype m o y)) (o + 1) ys

/-- The packet after one payload byte is that of `airMemory`. -/
theorem rxPacket_eq (s : State) (r : Word) : rxPacket s r = { s.buf s.active with
    payload := Memory.write (s.buf s.active).payload (frameIndex (s.buf s.active).ptype (s.pos.toNat - 2))
      (airByte (s.buf s.active).ptype (s.buf s.active).payload (s.pos.toNat - 2) (receivedByte r)) } := rfl

/-- A list of bytes laid over a payload from index `o` on, and its first byte alone. -/
theorem overlay_cons (b : Byte) (bs : List Byte) (o j : Nat) (x : Byte) :
    (if o + 1 ≤ j ∧ j < o + 1 + bs.length then bs.getD (j - (o + 1)) 0x00#8 else if j = o then b else x) =
      if o ≤ j ∧ j < o + (b :: bs).length then (b :: bs).getD (j - o) 0x00#8 else x := by
  rw [List.length_cons]
  rcases Nat.lt_trichotomy j o with hlt | rfl | hgt
  · rw [if_neg (by omega), if_neg (by omega), if_neg (by omega)]
  · rw [if_neg (by omega), if_pos rfl, if_pos (by omega), Nat.sub_self, List.getD_cons_zero]
  · obtain ⟨k, rfl⟩ := Nat.exists_eq_add_of_lt hgt
    have hthere : o + k + 1 - o = k + 1 := by omega
    have hrest : o + k + 1 - (o + 1) = k := by omega
    rw [hthere, hrest, List.getD_cons_succ]
    by_cases hin : k < bs.length
    · rw [if_pos (by omega), if_pos (by omega)]
    · rw [if_neg (by omega), if_neg (by omega), if_neg (by omega)]

/-- Raw bytes are stored as they are, one index each. -/
theorem read_airMemory_raw {ptype : Byte} (hraw : ¬isEcc ptype = true) (bs : List Byte) (m : Memory) (o j : Nat) :
    Memory.read (airMemory ptype m o bs) j =
      if o ≤ j ∧ j < o + bs.length then bs.getD (j - o) 0x00#8 else Memory.read m j := by
  induction bs generalizing m o with
  | nil => exact (if_neg (by simp)).symm
  | cons b bs ih =>
    have hindex : frameIndex ptype o = o := if_neg hraw
    have hbyte : airByte ptype m o b = b := if_neg hraw
    rw [airMemory, ih, hindex, hbyte, Memory.read_write, overlay_cons]

/-- The two halves of a byte, stored one after the other on top of 0 (R131). -/
theorem byte_of_halves (b : Byte) :
    (0x00#8 ||| byteOfNibbles 0x0#4 (lowNibble b)) ||| byteOfNibbles (highNibble b) 0x0#4 = b := by
  revert b; decide

/-- Two symbols with at most one flipped bit each store one byte, on an index that reads 0 (R131). -/
theorem airMemory_two_symbols {ptype b y z : Byte} (hecc : isEcc ptype = true) {m : Memory} {o : Nat}
    (hy : dist y (encodeNibble defaultCode (lowNibble b)) ≤ 1)
    (hz : dist z (encodeNibble defaultCode (highNibble b)) ≤ 1) (hm : Memory.read m o = 0x00#8) (ys : List Byte) :
    ∃ m', airMemory ptype m (2 * o) (y :: z :: ys) = airMemory ptype m' (2 * (o + 1)) ys ∧
      ∀ j, Memory.read m' j = if j = o then b else Memory.read m j := by
  have hfirst : frameIndex ptype (2 * o) = o := by rw [frameIndex, if_pos hecc]; omega
  have hsecond : frameIndex ptype (2 * o + 1) = o := by rw [frameIndex, if_pos hecc]; omega
  have hlow : airByte ptype m (2 * o) y = 0x00#8 ||| byteOfNibbles 0x0#4 (lowNibble b) := by
    rw [airByte, if_pos hecc, hfirst, hm, if_pos (by omega), decodeNibble_eq_of_dist_le_one defaultCode_codeOk hy]
  have hhigh (m : Memory) : airByte ptype (Memory.write m o (0x00#8 ||| byteOfNibbles 0x0#4 (lowNibble b)))
      (2 * o + 1) z = b := by
    rw [airByte, if_pos hecc, hsecond, Memory.read_write_self, if_neg (by omega),
      decodeNibble_eq_of_dist_le_one defaultCode_codeOk hz, byte_of_halves]
  refine ⟨_, rfl, fun j => ?_⟩
  rw [hfirst, hsecond, hlow, hhigh, Memory.read_write]
  by_cases hj : j = o
  · rw [if_pos hj, if_pos hj]
  · rw [if_neg hj, if_neg hj, Memory.read_write_ne _ _ hj]

/-- Symbols with at most one flipped bit each rebuild one byte from two, on indexes that read 0. -/
theorem read_airMemory_ecc {ptype : Byte} (hecc : isEcc ptype = true) (bs : List Byte) {ys : List Byte} {m : Memory}
    {o : Nat} (hys : List.Forall₂ (fun y x => dist y x ≤ 1) ys (airData ptype bs))
    (hm : ∀ j, o ≤ j → j < o + bs.length → Memory.read m j = 0x00#8) (j : Nat) :
    Memory.read (airMemory ptype m (2 * o) ys) j =
      if o ≤ j ∧ j < o + bs.length then bs.getD (j - o) 0x00#8 else Memory.read m j := by
  rw [airData, if_pos hecc] at hys
  induction bs generalizing ys m o with
  | nil =>
    cases hys
    exact (if_neg (by simp)).symm
  | cons b bs ih =>
    obtain ⟨y, zs, hy, hzs, rfl⟩ := List.forall₂_cons_right_iff.mp hys
    obtain ⟨z, ys, hz, hrest, rfl⟩ := List.forall₂_cons_right_iff.mp hzs
    obtain ⟨m', hmemory, hread⟩ := airMemory_two_symbols hecc hy hz (hm o (Nat.le_refl o) (by simp)) ys
    have hm' (k : Nat) (hlow : o + 1 ≤ k) (hhigh : k < o + 1 + bs.length) : Memory.read m' k = 0x00#8 := by
      rw [hread, if_neg (by omega)]
      exact hm k (by omega) (by rw [List.length_cons]; omega)
    rw [hmemory, ih hrest hm', hread, overlay_cons]

/-- Air bytes that match the payload's, on a payload whose 64 bytes read 0, rebuild it. -/
theorem read_airMemory {ptype : Byte} {bytes air : List Byte} {m : Memory} (hlen : bytes.length ≤ 64)
    (hair : air.length = (airData ptype bytes).length)
    (hmatch : ∀ j, j < air.length →
      if isEcc ptype then dist (air.getD j 0x00#8) ((airData ptype bytes).getD j 0x00#8) ≤ 1
      else air.getD j 0x00#8 = (airData ptype bytes).getD j 0x00#8)
    (hm : ∀ j, j < 64 → Memory.read m j = 0x00#8) {i : Nat} (hi : i < 64) :
    Memory.read (airMemory ptype m 0 air) i = bytes.getD i 0x00#8 := by
  have hread : Memory.read (airMemory ptype m 0 air) i =
      if 0 ≤ i ∧ i < 0 + bytes.length then bytes.getD (i - 0) 0x00#8 else Memory.read m i := by
    by_cases hecc : isEcc ptype = true
    · simp only [hecc, if_true] at hmatch
      refine read_airMemory_ecc hecc bytes (o := 0) (List.forall₂_iff_get.mpr ⟨hair, fun j hj hj' => ?_⟩)
        (fun j _ hj => hm j (by omega)) i
      simpa [List.getD_eq_getElem, hj, hj'] using hmatch j hj
    · simp only [hecc] at hmatch
      have heq : air = bytes := by
        have hraw : airData ptype bytes = bytes := if_neg hecc
        rw [hraw] at hair hmatch
        refine List.ext_getElem hair fun j hj hj' => ?_
        simpa [List.getD_eq_getElem, hj, hj'] using hmatch j hj
      rw [heq]
      exact read_airMemory_raw hecc bytes m 0 i
  rw [hread]
  by_cases hin : i < bytes.length
  · rw [if_pos (by omega), Nat.sub_zero]
  · rw [if_neg (by omega), hm i hi, List.getD_eq_default _ _ (by omega)]

/-! ### The events of a reception -/

/-- The state after the last event of a reception: the packet `p` published, with `l` driven (R133). -/
def State.published (s : State) (p : Packet) (l : List OutEvent) : State :=
  (({ s with
    live := true
    pos := 0x00#8
    state := .idle
    finished := s.active
    ready := true
    active := s.active.other
    out := s.out ++ l } : State).setPacket s.active.toBuf p).setPacket
      s.active.other.toBuf { s.buf s.active.other with payloadSize := 0x00#8 }

theorem State.onLastByte_eq (s : State) (r : Word) : s.onLastByte r =
    s.published (rxPacket s r) (bracket (Config.cmdRxRead :: Config.seqFifoClear s.fifoUser)) := rfl

/-- A publication replaces the packet that earlier events of the reception have written. -/
theorem State.published_of_receiving (s : State) (x : DriverState) (n : Byte) (l l' : List OutEvent) (p q : Packet) :
    (({ s with live := true, state := x, pos := n, out := s.out ++ l } : State).setPacket
      s.active.toBuf q).published p l' = s.published p (l ++ l') := by
  cases s with
  | mk _ _ _ _ _ active =>
    cases active <;> simp [State.published, State.setPacket, RxBuf.toBuf, RxBuf.other]

/-- From any counter past the type byte: the remaining bytes are stored, and the last of them publishes the packet. The
induction is over the bytes left. -/
theorem runEvents_air {rs : List Word} (hne : rs ≠ []) {s : State} (hirq : s.irqEn = true)
    (hstate : s.state = .receivingPacket) (hlow : 2 ≤ s.pos.toNat)
    (hsize : (s.buf s.active).payloadSize.toNat ≤ 64)
    (htotal : s.pos.toNat + rs.length = rxTotal (s.buf s.active)) :
    runEvents rs s = .next (s.published
      { s.buf s.active with
        payload := airMemory (s.buf s.active).ptype (s.buf s.active).payload (s.pos.toNat - 2) (rs.map receivedByte) }
      ((List.replicate (rs.length - 1) (bracket [Config.cmdRxRead])).flatten ++
        bracket (Config.cmdRxRead :: Config.seqFifoClear s.fifoUser))) := by
  induction rs generalizing s with
  | nil => exact absurd rfl hne
  | cons r rs ih =>
    rw [List.length_cons] at htotal
    have hle := rxTotal_le hsize
    have hindex := rxIndex_lt_size_of_lt_total hlow (by omega)
    have hsucc : (s.pos + 1#8).toNat = s.pos.toNat + 1 := toNat_succ_of_le (by omega)
    by_cases hlast : rs = []
    · subst hlast
      rw [List.length_nil] at htotal
      have hexec : exec (eventInstr s.state true r) s = .next (s.onLastByte r) := by
        rw [hstate]
        exact exec_lastByte hirq hstate (by omega) (by omega) r (by omega)
      rw [runEvents_cons hexec, State.onLastByte_eq, rxPacket_eq]
      rfl
    · have hmore : 0 < rs.length := List.length_pos_iff.mpr hlast
      have hexec : exec (eventInstr s.state true r) s = .next (s.onPayloadByte r) := by
        rw [hstate]
        exact exec_payloadByte hirq hstate (by omega) (by omega) r (by omega)
      have hbuf : (s.onPayloadByte r).buf (s.onPayloadByte r).active = rxPacket s r := by simp [State.onPayloadByte]
      have hrest := ih hlast (s := s.onPayloadByte r) (by simpa using hirq) (by simpa using hstate)
        (by rw [State.onPayloadByte_pos]; omega) (by rwa [hbuf])
        (by rw [State.onPayloadByte_pos, hbuf]; show _ = rxTotal (s.buf s.active); omega)
      have hoffset : s.pos.toNat + 1 - 2 = s.pos.toNat - 2 + 1 := by omega
      have hcount : rs.length = rs.length - 1 + 1 := by omega
      have hfifo : (s.onPayloadByte r).fifoUser = s.fifoUser := by simp [State.onPayloadByte]
      rw [runEvents_cons hexec, hrest, hbuf, State.onPayloadByte_pos, hsucc, hoffset, hfifo, State.onPayloadByte,
        State.published_of_receiving, ← List.append_assoc, List.length_cons, Nat.add_sub_cancel, hcount,
        List.replicate_succ, List.flatten_cons]
      rfl

/-! ### The statement -/

theorem length_airData (ptype : Byte) (bytes : List Byte) :
    (airData ptype bytes).length = bytes.length * multiplier ptype := by
  rw [airData, multiplier]
  split
  · simp [List.length_flatMap]
  · simp

/-- The driven transfers of a reception of `n` air bytes: one read each for the size, the type and all air bytes but the
last, whose read stands with the FIFO clear. -/
theorem reads_of_reception {n : Nat} (hn : 0 < n) (b : List OutEvent) (l : List OutEvent) :
    b ++ (b ++ ((List.replicate (n - 1) b).flatten ++ l)) = (List.replicate (n + 1) b).flatten ++ l := by
  obtain ⟨k, rfl⟩ := Nat.exists_eq_add_of_lt hn
  simp [List.replicate_succ]

/-- The events of a reception from `Idle`: the size byte, the type byte, then the air bytes on a payload filled with
zeros. -/
theorem runEvents_reception {s : State} {r₀ r₁ : Word} {rs : List Word} (hirq : s.irqEn = true)
    (hidle : s.state = .idle) (hsize : sizeOk (receivedByte r₀) = true)
    (hlen : rs.length = (receivedByte r₀).toNat * multiplier (receivedByte r₁)) :
    runEvents (r₀ :: r₁ :: rs) s = .next (s.published
      { payloadSize := receivedByte r₀
        ptype := receivedByte r₁
        payload := airMemory (receivedByte r₁) (Memory.fill (s.buf s.active).payload fun _ => 0x00#8) 0
          (rs.map receivedByte) }
      ((List.replicate (rs.length + 1) (bracket [Config.cmdRxRead])).flatten ++
        bracket (Config.cmdRxRead :: Config.seqFifoClear s.fifoUser))) := by
  obtain ⟨hlow, hhigh⟩ := (sizeOk_iff _).mp hsize
  have hsome : 0 < rs.length := hlen ▸ Nat.mul_pos hlow (multiplier_pos _)
  have hfirst : exec (eventInstr s.state true r₀) s = .next (s.onSizeByte r₀) := by
    rw [hidle]
    exact exec_sizeByte hirq hidle hsize
  have hsecond : exec (eventInstr (s.onSizeByte r₀).state true r₁) (s.onSizeByte r₀) =
      .next ((s.onSizeByte r₀).onTypeByte r₁) := by
    rw [State.onSizeByte_state]
    exact exec_typeByte (by simpa using hirq) (by simp) (by simp) r₁
  obtain ⟨t, ht⟩ : ∃ t, t = (s.onSizeByte r₀).onTypeByte r₁ := ⟨_, rfl⟩
  have hbuf : t.buf t.active = {
      payloadSize := receivedByte r₀
      ptype := receivedByte r₁
      payload := Memory.fill (s.buf s.active).payload fun _ => 0x00#8 } := by
    simp [ht, State.onTypeByte, State.onSizeByte]
  have hpos : t.pos.toNat = 2 := by simp [ht]
  have hfifo : t.fifoUser = s.fifoUser := by simp [ht, State.onTypeByte, State.onSizeByte]
  have hrun := runEvents_air (rs := rs) (List.length_pos_iff.mp hsome) (s := t) (by simpa [ht] using hirq)
    (by simp [ht]) (by omega) (by rwa [hbuf]) (by rw [hbuf, hpos, hlen, rxTotal_eq])
  have hpublished (p : Packet) (l : List OutEvent) :
      t.published p l = s.published p (bracket [Config.cmdRxRead] ++ (bracket [Config.cmdRxRead] ++ l)) := by
    rw [ht, State.onTypeByte, State.published_of_receiving, State.onSizeByte, State.published_of_receiving]
  rw [runEvents_cons hfirst, runEvents_cons hsecond, ← ht, hrun, hbuf, hpos, hfifo, hpublished,
    reads_of_reception hsome]

/-- Settles O57: the events publish a packet with the payload of `airMemory`, which the air bytes rebuild. -/
theorem receiveEventsRebuildPacket : Obligations.ReceiveEventsRebuildPacket := by
  intro s ptype bytes air rs hirq hidle hlow hhigh hair hmatch hrs
  match rs, hrs with
  | [_], hrs => simp at hrs
  | r₀ :: r₁ :: rs, hrs =>
    have hbytes : receivedByte r₀ :: receivedByte r₁ :: rs.map receivedByte =
        BitVec.ofNat 8 bytes.length :: ptype :: air := hrs
    simp only [List.cons.injEq] at hbytes
    obtain ⟨hr₀, rfl, rfl⟩ := hbytes
    have hsize : (receivedByte r₀).toNat = bytes.length := by
      rw [hr₀, BitVec.toNat_ofNat]
      omega
    have hzero (j : Nat) (hj : j < 64) :
        Memory.read (Memory.fill (s.buf s.active).payload fun _ => 0x00#8) j = 0x00#8 := by
      rw [Memory.read_fill, if_pos hj]
    have hlen : (rs.map receivedByte).length = rs.length := List.length_map _
    refine ⟨_, ?_, fun i hi => read_airMemory hhigh hair hmatch hzero hi⟩
    rw [runEvents_reception hirq hidle ((sizeOk_iff _).mpr (by omega))
      (by rw [← hlen, hair, length_airData, hsize]), hlen, ← hr₀, State.published, List.append_assoc]

end Sys2Proof.Machine
